-- ==== Sys2Proof/Word.lean ====
section
/-! DEFINITION. The widths of the spec's values (10_state.md R20, 30_encoding.md R72). -/

namespace Sys2Proof

/-- A memory byte or a V register (R21, R30). -/
abbrev Byte := BitVec 8

/-- An instruction word, `I`, `pc`, or a stack entry (R24, R25, R27, R70). -/
abbrev Word := BitVec 16

/-- A register index: the 4-bit fields `x` and `y` (R72). -/
abbrev RegIx := BitVec 4

/-- The 4-bit immediate `n` (R72). -/
abbrev Nibble := BitVec 4

/-- The 12-bit address field `nnn` (R72). -/
abbrev Addr12 := BitVec 12

end Sys2Proof
end

