-- ==== Sys2Proof/Syntax.lean ====
section
/-! DEFINITION. The instruction set: one constructor per row of spec/opcode_table.json, in the table's
order (30_encoding.md R77, and R82 for the `0nnn` row). -/

namespace Sys2Proof

/-- An instruction. `x` and `y` always name general registers (30_encoding.md R75). `shr` and `shl` carry
the `y` field that is "decoded but not used" (R75), so that no bit of an encoding is lost. -/
inductive Instr where
  /-- `00E0` CLS, 41_display.md R120 -/
  | cls
  /-- `00EE` RET, 42_flow.md R130 -/
  | ret
  /-- `1nnn` JP nnn, R131 -/
  | jp (nnn : Addr12)
  /-- `2nnn` CALL nnn, R132 -/
  | call (nnn : Addr12)
  /-- `3xnn` SE Vx, nn, R133 -/
  | seImm (x : RegIx) (nn : Byte)
  /-- `4xnn` SNE Vx, nn, R134 -/
  | sneImm (x : RegIx) (nn : Byte)
  /-- `5xy0` SE Vx, Vy, R135 -/
  | seReg (x y : RegIx)
  /-- `6xnn` LD Vx, nn, 43_alu.md R151 -/
  | ldImm (x : RegIx) (nn : Byte)
  /-- `7xnn` ADD Vx, nn, R152 -/
  | addImm (x : RegIx) (nn : Byte)
  /-- `8xy0` LD Vx, Vy, R153 -/
  | ldReg (x y : RegIx)
  /-- `8xy1` OR Vx, Vy, R154 -/
  | orReg (x y : RegIx)
  /-- `8xy2` AND Vx, Vy, R155 -/
  | andReg (x y : RegIx)
  /-- `8xy3` XOR Vx, Vy, R156 -/
  | xorReg (x y : RegIx)
  /-- `8xy4` ADD Vx, Vy, R157 -/
  | addReg (x y : RegIx)
  /-- `8xy5` SUB Vx, Vy, R158 -/
  | sub (x y : RegIx)
  /-- `8xy6` SHR Vx, R159 -/
  | shr (x y : RegIx)
  /-- `8xy7` SUBN Vx, Vy, R160 -/
  | subn (x y : RegIx)
  /-- `8xyE` SHL Vx, R161 -/
  | shl (x y : RegIx)
  /-- `9xy0` SNE Vx, Vy, 42_flow.md R136 -/
  | sneReg (x y : RegIx)
  /-- `Annn` LD I, nnn, 44_index_memory.md R170 -/
  | ldI (nnn : Addr12)
  /-- `Bnnn` JP V0, nnn, 42_flow.md R137 -/
  | jpV0 (nnn : Addr12)
  /-- `Cxnn` RND Vx, nn, 43_alu.md R162 -/
  | rnd (x : RegIx) (nn : Byte)
  /-- `Dxyn` DRW Vx, Vy, n, 41_display.md R121 -/
  | drw (x y : RegIx) (n : Nibble)
  /-- `Ex9E` SKP Vx, 45_keys_timers.md R190 -/
  | skp (x : RegIx)
  /-- `ExA1` SKNP Vx, R191 -/
  | sknp (x : RegIx)
  /-- `Fx07` LD Vx, DT, R192 -/
  | ldVxDT (x : RegIx)
  /-- `Fx0A` LD Vx, K, R193 -/
  | ldVxK (x : RegIx)
  /-- `Fx15` LD DT, Vx, R194 -/
  | ldDTVx (x : RegIx)
  /-- `Fx18` LD ST, Vx, R195 -/
  | ldSTVx (x : RegIx)
  /-- `Fx1E` ADD I, Vx, 44_index_memory.md R171 -/
  | addI (x : RegIx)
  /-- `Fx29` LD F, Vx, R172 -/
  | ldF (x : RegIx)
  /-- `Fx33` LD B, Vx, R173 -/
  | ldB (x : RegIx)
  /-- `Fx55` LD [I], Vx, R174 -/
  | storeRegs (x : RegIx)
  /-- `Fx65` LD Vx, [I], R175 -/
  | loadRegs (x : RegIx)
  /-- `0nnn` other than `00E0` and `00EE`: the no-op row of the opcode table, 30_encoding.md R82,
  40_cycle.md R107 -/
  | sys (nnn : Addr12)
deriving DecidableEq, Repr

end Sys2Proof
end

