-- ==== Sys2Proof/WellFormed.lean ====
section
/-! DEFINITION. Which instruction terms stand for a word of their own row. -/

namespace Sys2Proof

/-- Every field has the exact width of its encoding (30_encoding.md R72), so the one check is that a `0nnn`
no-op is not one of the two words that `00E0` and `00EE` take (R78, R82). -/
def Instr.wellFormed : Instr → Bool
  | .cls | .ret | .jp _ | .call _ => true
  | .seImm _ _ | .sneImm _ _ | .seReg _ _ | .sneReg _ _ => true
  | .ldImm _ _ | .addImm _ _ | .ldReg _ _ | .orReg _ _ | .andReg _ _ | .xorReg _ _ => true
  | .addReg _ _ | .sub _ _ | .shr _ _ | .subn _ _ | .shl _ _ | .rnd _ _ => true
  | .ldI _ | .jpV0 _ | .drw _ _ _ => true
  | .skp _ | .sknp _ | .ldVxDT _ | .ldVxK _ | .ldDTVx _ | .ldSTVx _ => true
  | .addI _ | .ldF _ | .ldB _ | .storeRegs _ | .loadRegs _ => true
  | .sys nnn => nnn != 0x0E0#12 && nnn != 0x0EE#12

end Sys2Proof
end

