-- ==== Sys2Proof/Decode.lean ====
section
/-! DEFINITION. The decoder, the encoder and the opcode map (30_encoding.md). Dispatch is two-level as R76 says;
the opcode map of R77 stands beside it as data, so that a statement can compare the two. -/

namespace Sys2Proof

/-! ### Fields (R72) -/

/-- `code` = w[15:12], the opcode family. -/
def fieldCode (w : Word) : Nibble := w.extractLsb' 12 4

/-- `x` = w[11:8]. -/
def fieldX (w : Word) : RegIx := w.extractLsb' 8 4

/-- `y` = w[7:4]. -/
def fieldY (w : Word) : RegIx := w.extractLsb' 4 4

/-- `n` = w[3:0]. -/
def fieldN (w : Word) : Nibble := w.extractLsb' 0 4

/-- `nn` = w[7:0]. -/
def fieldNN (w : Word) : Byte := w.extractLsb' 0 8

/-- `nnn` = w[11:0]. -/
def fieldNNN (w : Word) : Addr12 := w.extractLsb' 0 12

/-! ### Decoder -/

/-- Why the decoder gives no instruction. Neither is an error of the machine: "Decoding itself never faults" (R73). -/
inductive DecodeRefusal where
  /-- no row of the opcode map selects the word (R79); the cycle executes it as a no-op (40_cycle.md R107) -/
  | unmatched (w : Word)
  /-- fewer than the two bytes of an instruction word were given (R70); a fetch never gives so few -/
  | truncated
deriving DecidableEq, Repr

/-- Family 0x0: the secondary key is the whole rest of the word, since both rows fix x = 0 (R76, R78); every other
word is the no-op row `0nnn` (R82). -/
def decodeFamily0 (w : Word) : Except DecodeRefusal Instr :=
  match fieldNNN w with
  | 0x0E0#12 => .ok .cls
  | 0x0EE#12 => .ok .ret
  | nnn => .ok (.sys nnn)

/-- Family 0x5: n must be 0 (R78). -/
def decodeFamily5 (w : Word) : Except DecodeRefusal Instr :=
  match fieldN w with
  | 0x0#4 => .ok (.seReg (fieldX w) (fieldY w))
  | _ => .error (.unmatched w)

/-- Family 0x8: the secondary key is n (R76). -/
def decodeFamily8 (w : Word) : Except DecodeRefusal Instr :=
  match fieldN w with
  | 0x0#4 => .ok (.ldReg (fieldX w) (fieldY w))
  | 0x1#4 => .ok (.orReg (fieldX w) (fieldY w))
  | 0x2#4 => .ok (.andReg (fieldX w) (fieldY w))
  | 0x3#4 => .ok (.xorReg (fieldX w) (fieldY w))
  | 0x4#4 => .ok (.addReg (fieldX w) (fieldY w))
  | 0x5#4 => .ok (.sub (fieldX w) (fieldY w))
  | 0x6#4 => .ok (.shr (fieldX w) (fieldY w))
  | 0x7#4 => .ok (.subn (fieldX w) (fieldY w))
  | 0xE#4 => .ok (.shl (fieldX w) (fieldY w))
  | _ => .error (.unmatched w)

/-- Family 0x9: n must be 0 (R78). -/
def decodeFamily9 (w : Word) : Except DecodeRefusal Instr :=
  match fieldN w with
  | 0x0#4 => .ok (.sneReg (fieldX w) (fieldY w))
  | _ => .error (.unmatched w)

/-- Family 0xE: the secondary key is nn (R76). -/
def decodeFamilyE (w : Word) : Except DecodeRefusal Instr :=
  match fieldNN w with
  | 0x9E#8 => .ok (.skp (fieldX w))
  | 0xA1#8 => .ok (.sknp (fieldX w))
  | _ => .error (.unmatched w)

/-- Family 0xF: the secondary key is nn (R76). -/
def decodeFamilyF (w : Word) : Except DecodeRefusal Instr :=
  match fieldNN w with
  | 0x07#8 => .ok (.ldVxDT (fieldX w))
  | 0x0A#8 => .ok (.ldVxK (fieldX w))
  | 0x15#8 => .ok (.ldDTVx (fieldX w))
  | 0x18#8 => .ok (.ldSTVx (fieldX w))
  | 0x1E#8 => .ok (.addI (fieldX w))
  | 0x29#8 => .ok (.ldF (fieldX w))
  | 0x33#8 => .ok (.ldB (fieldX w))
  | 0x55#8 => .ok (.storeRegs (fieldX w))
  | 0x65#8 => .ok (.loadRegs (fieldX w))
  | _ => .error (.unmatched w)

/-- The first level of the dispatch: the top 4 bits select a family (R76). -/
def decodeWord (w : Word) : Except DecodeRefusal Instr :=
  match fieldCode w with
  | 0x0#4 => decodeFamily0 w
  | 0x1#4 => .ok (.jp (fieldNNN w))
  | 0x2#4 => .ok (.call (fieldNNN w))
  | 0x3#4 => .ok (.seImm (fieldX w) (fieldNN w))
  | 0x4#4 => .ok (.sneImm (fieldX w) (fieldNN w))
  | 0x5#4 => decodeFamily5 w
  | 0x6#4 => .ok (.ldImm (fieldX w) (fieldNN w))
  | 0x7#4 => .ok (.addImm (fieldX w) (fieldNN w))
  | 0x8#4 => decodeFamily8 w
  | 0x9#4 => decodeFamily9 w
  | 0xA#4 => .ok (.ldI (fieldNNN w))
  | 0xB#4 => .ok (.jpV0 (fieldNNN w))
  | 0xC#4 => .ok (.rnd (fieldX w) (fieldNN w))
  | 0xD#4 => .ok (.drw (fieldX w) (fieldY w) (fieldN w))
  | 0xE#4 => decodeFamilyE w
  | 0xF#4 => decodeFamilyF w
  | _ => .error (.unmatched w)

/-- A word from its two bytes, big-endian: the byte at the lower address is w[15:8] (R70, 20_memory.md R55). -/
def wordOfBytes (hi lo : Byte) : Word := hi ++ lo

/-- The byte of a word that lies at the lower address, w[15:8] (R70). -/
def highByte (w : Word) : Byte := w.extractLsb' 8 8

/-- The byte of a word that lies at the higher address, w[7:0] (R70). -/
def lowByte (w : Word) : Byte := w.extractLsb' 0 8

/-- The decoder on bytes as they lie in memory: the instruction of the first two, and the rest. -/
def decode : List Byte → Except DecodeRefusal (Instr × List Byte)
  | hi :: lo :: rest =>
    match decodeWord (wordOfBytes hi lo) with
    | .ok i => .ok (i, rest)
    | .error e => .error e
  | _ => .error .truncated

/-- The instruction the decoder reads from a row's word `w` of `nbits` bits, numbered as spec/opcode_table.json
numbers them: the word is laid out in its two bytes as memory holds it. -/
def decodeTableWord (nbits w : Nat) : Option Instr :=
  let word : Word := BitVec.ofNat 16 (w % 2 ^ nbits)
  match decode [highByte word, lowByte word] with
  | .ok (i, _) => some i
  | .error _ => none

/-! ### Encoder (R71, R77) -/

/-- Pattern `k x y n`: four nibbles, most significant first (R71). -/
def formXYN (k : Nibble) (x y : RegIx) (n : Nibble) : Word := k ++ x ++ y ++ n

/-- Pattern `k x nn` (R71). -/
def formXNN (k : Nibble) (x : RegIx) (nn : Byte) : Word := k ++ x ++ nn

/-- Pattern `k nnn` (R71). -/
def formNNN (k : Nibble) (nnn : Addr12) : Word := k ++ nnn

/-- The word of a well-formed instruction, from the pattern column of R77. -/
def encode : Instr → Word
  | .cls => 0x00E0#16
  | .ret => 0x00EE#16
  | .jp nnn => formNNN 0x1#4 nnn
  | .call nnn => formNNN 0x2#4 nnn
  | .seImm x nn => formXNN 0x3#4 x nn
  | .sneImm x nn => formXNN 0x4#4 x nn
  | .seReg x y => formXYN 0x5#4 x y 0x0#4
  | .ldImm x nn => formXNN 0x6#4 x nn
  | .addImm x nn => formXNN 0x7#4 x nn
  | .ldReg x y => formXYN 0x8#4 x y 0x0#4
  | .orReg x y => formXYN 0x8#4 x y 0x1#4
  | .andReg x y => formXYN 0x8#4 x y 0x2#4
  | .xorReg x y => formXYN 0x8#4 x y 0x3#4
  | .addReg x y => formXYN 0x8#4 x y 0x4#4
  | .sub x y => formXYN 0x8#4 x y 0x5#4
  | .shr x y => formXYN 0x8#4 x y 0x6#4
  | .subn x y => formXYN 0x8#4 x y 0x7#4
  | .shl x y => formXYN 0x8#4 x y 0xE#4
  | .sneReg x y => formXYN 0x9#4 x y 0x0#4
  | .ldI nnn => formNNN 0xA#4 nnn
  | .jpV0 nnn => formNNN 0xB#4 nnn
  | .rnd x nn => formXNN 0xC#4 x nn
  | .drw x y n => formXYN 0xD#4 x y n
  | .skp x => formXNN 0xE#4 x 0x9E#8
  | .sknp x => formXNN 0xE#4 x 0xA1#8
  | .ldVxDT x => formXNN 0xF#4 x 0x07#8
  | .ldVxK x => formXNN 0xF#4 x 0x0A#8
  | .ldDTVx x => formXNN 0xF#4 x 0x15#8
  | .ldSTVx x => formXNN 0xF#4 x 0x18#8
  | .addI x => formXNN 0xF#4 x 0x1E#8
  | .ldF x => formXNN 0xF#4 x 0x29#8
  | .ldB x => formXNN 0xF#4 x 0x33#8
  | .storeRegs x => formXNN 0xF#4 x 0x55#8
  | .loadRegs x => formXNN 0xF#4 x 0x65#8
  | .sys nnn => formNNN 0x0#4 nnn

/-- The bytes of an instruction as memory holds them, big-endian (R70). -/
def encodeBytes (i : Instr) : List Byte := [highByte (encode i), lowByte (encode i)]

/-! ### The opcode map as data (R77) -/

/-- One row of the opcode map: `mask` has a 1 in every fixed bit, `bits` is the value of the fixed bits. -/
structure OpcodeRow where
  pattern : String
  mask : Word
  bits : Word
deriving DecidableEq, Repr

/-- The row selects the word (R77, 40_cycle.md R111). -/
abbrev OpcodeRow.selects (r : OpcodeRow) (w : Word) : Prop := w &&& r.mask = r.bits

/-- The row of an instruction: the mask and match columns of R77, and for `sys` those of the table's no-op row. -/
def Instr.row : Instr → OpcodeRow
  | .cls => ⟨"00E0", 0xFFFF#16, 0x00E0#16⟩
  | .ret => ⟨"00EE", 0xFFFF#16, 0x00EE#16⟩
  | .jp _ => ⟨"1nnn", 0xF000#16, 0x1000#16⟩
  | .call _ => ⟨"2nnn", 0xF000#16, 0x2000#16⟩
  | .seImm _ _ => ⟨"3xnn", 0xF000#16, 0x3000#16⟩
  | .sneImm _ _ => ⟨"4xnn", 0xF000#16, 0x4000#16⟩
  | .seReg _ _ => ⟨"5xy0", 0xF00F#16, 0x5000#16⟩
  | .ldImm _ _ => ⟨"6xnn", 0xF000#16, 0x6000#16⟩
  | .addImm _ _ => ⟨"7xnn", 0xF000#16, 0x7000#16⟩
  | .ldReg _ _ => ⟨"8xy0", 0xF00F#16, 0x8000#16⟩
  | .orReg _ _ => ⟨"8xy1", 0xF00F#16, 0x8001#16⟩
  | .andReg _ _ => ⟨"8xy2", 0xF00F#16, 0x8002#16⟩
  | .xorReg _ _ => ⟨"8xy3", 0xF00F#16, 0x8003#16⟩
  | .addReg _ _ => ⟨"8xy4", 0xF00F#16, 0x8004#16⟩
  | .sub _ _ => ⟨"8xy5", 0xF00F#16, 0x8005#16⟩
  | .shr _ _ => ⟨"8xy6", 0xF00F#16, 0x8006#16⟩
  | .subn _ _ => ⟨"8xy7", 0xF00F#16, 0x8007#16⟩
  | .shl _ _ => ⟨"8xyE", 0xF00F#16, 0x800E#16⟩
  | .sneReg _ _ => ⟨"9xy0", 0xF00F#16, 0x9000#16⟩
  | .ldI _ => ⟨"Annn", 0xF000#16, 0xA000#16⟩
  | .jpV0 _ => ⟨"Bnnn", 0xF000#16, 0xB000#16⟩
  | .rnd _ _ => ⟨"Cxnn", 0xF000#16, 0xC000#16⟩
  | .drw _ _ _ => ⟨"Dxyn", 0xF000#16, 0xD000#16⟩
  | .skp _ => ⟨"Ex9E", 0xF0FF#16, 0xE09E#16⟩
  | .sknp _ => ⟨"ExA1", 0xF0FF#16, 0xE0A1#16⟩
  | .ldVxDT _ => ⟨"Fx07", 0xF0FF#16, 0xF007#16⟩
  | .ldVxK _ => ⟨"Fx0A", 0xF0FF#16, 0xF00A#16⟩
  | .ldDTVx _ => ⟨"Fx15", 0xF0FF#16, 0xF015#16⟩
  | .ldSTVx _ => ⟨"Fx18", 0xF0FF#16, 0xF018#16⟩
  | .addI _ => ⟨"Fx1E", 0xF0FF#16, 0xF01E#16⟩
  | .ldF _ => ⟨"Fx29", 0xF0FF#16, 0xF029#16⟩
  | .ldB _ => ⟨"Fx33", 0xF0FF#16, 0xF033#16⟩
  | .storeRegs _ => ⟨"Fx55", 0xF0FF#16, 0xF055#16⟩
  | .loadRegs _ => ⟨"Fx65", 0xF0FF#16, 0xF065#16⟩
  | .sys _ => ⟨"0nnn", 0xF000#16, 0x0000#16⟩

/-- The 34 rows of R77, in the table's order: the row of one instruction of each. The no-op row `0nnn` (R82) is not
among them. -/
def opcodeMap : List OpcodeRow :=
  [Instr.cls, .ret, .jp 0, .call 0, .seImm 0 0, .sneImm 0 0, .seReg 0 0, .ldImm 0 0, .addImm 0 0].map Instr.row
    ++ [Instr.ldReg 0 0, .orReg 0 0, .andReg 0 0, .xorReg 0 0, .addReg 0 0, .sub 0 0, .shr 0 0, .subn 0 0,
        .shl 0 0, .sneReg 0 0].map Instr.row
    ++ [Instr.ldI 0, .jpV0 0, .rnd 0 0, .drw 0 0 0, .skp 0, .sknp 0].map Instr.row
    ++ [Instr.ldVxDT 0, .ldVxK 0, .ldDTVx 0, .ldSTVx 0, .addI 0, .ldF 0, .ldB 0, .storeRegs 0, .loadRegs 0].map
        Instr.row

end Sys2Proof
end

