-- ==== Sys2Proof/Config.lean ====
section
/-! DEFINITION. What the spec fixes for the machine (00_scope.md R8), the kinds of its open parameters (R9),
and the free values. The parameters that change what the machine does are arguments of it, `Parameters`; their
documented values, which a test could show wrong, stand in Machine/Parameters.lean. -/

namespace Sys2Proof.Config

/-- MEM_SIZE: addresses 0x000 to 0xFFF (R8, 20_memory.md R50). -/
def memSize : Nat := 4096

/-- FONT_BASE (R8, 10_state.md R31). -/
def fontBase : Nat := 0x050

/-- PROGRAM_BASE (R8, 60_exceptions.md R221). -/
def programBase : Nat := 0x200

/-- PC_RESET (R8, 10_state.md R24). -/
def pcReset : Word := 0x200#16

/-- KEY_SELECT: which key `Fx0A` takes when several are pressed (45_keys_timers.md R198). -/
inductive KeySelect where
  /-- any member of the pressed keys: a free choice -/
  | any
  /-- the least pressed index -/
  | lowest
deriving DecidableEq, Repr

/-- TIMER_TICK: whether the host may tick the timers (60_exceptions.md R210). -/
inductive TimerTick where
  /-- the documented configuration: no tick ever occurs -/
  | none
  /-- the host may tick any number of times between two cycles -/
  | external
deriving DecidableEq, Repr

/-- The open parameters that some rule depends on, the machine's configuration (R9): nothing in a run changes them.
CYCLE_RATE and TICK_RATE are used by no rule; SP range is decided and RAND is a free value. -/
structure Parameters where
  /-- FONT: the 80 glyph bytes that a reset puts at 0x050 to 0x09F (10_state.md R31) -/
  font : Vector Byte 80
  /-- KEY_SELECT (45_keys_timers.md R198) -/
  keySelect : KeySelect
  /-- TIMER_TICK (60_exceptions.md R210) -/
  timerTick : TimerTick
deriving DecidableEq, Repr

/-- FREE VALUE: the byte the environment supplies to the `k`-th draw, `rand_in` (43_alu.md R163, 60_exceptions.md
R220). No law holds of it. Log entry 2. -/
opaque randByte : Nat → Byte

/-- FREE VALUE: the free choice that the `k`-th draw makes among the pressed keys under KEY_SELECT = any
(45_keys_timers.md R198). No law holds of it. Log entry 3. -/
opaque keyPick : Nat → Nat

end Sys2Proof.Config
end

