-- ==== Sys2Proof/Machine/State.lean ====
section
/-! DEFINITION. The machine's state (10_state.md), the reasons a step stops, and the state after reset. -/

namespace Sys2Proof.Machine

/-- Memory as cells at strictly rising addresses, none equal to what an unlisted address reads as (`Memory.wf` in
Machine/Ops.lean says so; `memResetByte` there says what an unlisted address reads as). -/
abbrev Memory := List Host.Cell

/-- The display: 32 rows of 64 boolean pixels, row `y`, column `x` (10_state.md R32). -/
abbrev Display := Vector (Vector Bool 64) 32

/-- The causes of a fault (60_exceptions.md R202). -/
inductive FaultCause where
  /-- code 1: the fetch, pc > 0xFFE -/
  | fetchOutOfRange
  /-- code 2: `Dxyn`, `Fx65`, a read address of 4096 or more -/
  | memReadOutOfRange
  /-- code 3: `Fx33`, `Fx55`, a write address of 4096 or more -/
  | memWriteOutOfRange
  /-- code 4: `2nnn` with SP = 16 -/
  | stackOverflow
  /-- code 5: `00EE` with SP = 0 -/
  | stackUnderflow
  /-- code 6: `Ex9E`, `ExA1` with Vx > 15 -/
  | keyIndexOutOfRange
deriving DecidableEq, Repr

/-- What a fault records (60_exceptions.md R201): the cause, the address of the faulting instruction word (or the
faulting pc of a fetch), and the offending address or index. -/
structure FaultRecord where
  cause : FaultCause
  addr : Word
  info : Nat
deriving DecidableEq, Repr

/-- The run state (10_state.md R37). -/
inductive RunState where
  | running
  | faulted (record : FaultRecord)
deriving DecidableEq, Repr

/-- The machine's entire mutable state (10_state.md R20), and one field of the model's own, `draws`. -/
structure State where
  /-- `Mem`, 4096 bytes (R30) -/
  mem : Memory
  /-- `V[0..15]` (R21); `V[15]` is VF (R22) -/
  v : Vector Byte 16
  /-- `I` (R25) -/
  i : Word
  /-- `pc` (R24) -/
  pc : Word
  /-- `Stack[0..15]` (R27) -/
  stack : Vector Word 16
  /-- `SP`, 0..16 (R26) -/
  sp : Fin 17
  /-- `DT` (R28) -/
  dt : Byte
  /-- `ST` (R29) -/
  st : Byte
  /-- `Disp` (R32) -/
  disp : Display
  /-- `dirty` (R33) -/
  dirty : Bool
  /-- `Keys[0..15]`, written by the host only (R34); a cycle's snapshot is their value at its start (40_cycle.md R102) -/
  keys : Vector Bool 16
  /-- `run` (R37) -/
  run : RunState
  /-- THE MODEL'S OWN, not the spec's: how many free values have been drawn; the next draw is `Config.randByte draws`
  or `Config.keyPick draws`. Log entries 2, 3 and 4. -/
  draws : Nat
deriving DecidableEq, Repr

/-- Why a step takes no step. -/
inductive Fault where
  /-- Raised by `step`, and only there: the engine is in the Faulted state with this record, in which it "takes no
  further cycle" (60_exceptions.md R201, 40_cycle.md R111 "no step"). Safe: nothing is claimed of a further cycle. -/
  | engineFaulted (record : FaultRecord)
deriving DecidableEq, Repr

/-- Why the model gives no meaning. `step` raises none of them. -/
inductive Refusal where
  /-- An instruction with no meaning yet, by its mnemonic; no arm of `exec` raises it in this model. Safe. -/
  | notModelled (mnemonic : String)
  /-- Raised by `hostAct`: a timer tick under TIMER_TICK = none, in which "TimerTick never occurs" (60_exceptions.md
  R210). Safe for the documented configuration. -/
  | timerTickNotConfigured
  /-- Raised by `hostAct`: a program image of more than 3584 bytes, which "a model refuses" (60_exceptions.md R221).
  Safe. -/
  | programTooLong (length : Nat)
deriving DecidableEq, Repr

/-- The machine right after reset (70_reset_and_hazards.md R231, 10_state.md R39). Memory lists nothing, so it holds
the font at 0x050 and 0 elsewhere. `draws` is the model's own: DESIGN CHOICE 0, log entry 4. -/
def State.reset : State where
  mem := []
  v := Vector.replicate 16 0#8
  i := 0#16
  pc := Config.pcReset
  stack := Vector.replicate 16 0#16
  sp := 0
  dt := 0#8
  st := 0#8
  disp := Vector.replicate 32 (Vector.replicate 64 false)
  dirty := false
  keys := Vector.replicate 16 false
  run := .running
  draws := 0

end Sys2Proof.Machine
end

