-- ==== Sys2Proof/Machine/Parameters.lean ====
section
/-! DEFINITION. The documented values of the spec's parameters (00_scope.md R9): FONT, KEY_SELECT, TIMER_TICK. The
machine of Machine/Core.lean has these; `stepUnder`, `hostActUnder` and `State.resetUnder` take any others. -/

namespace Sys2Proof.Machine

/-- FONT: 16 glyphs of 5 bytes, the default table of 10_state.md R31 (decision D17). Log entry 1. -/
def font : List Byte :=
  [0xF0#8, 0x90#8, 0x90#8, 0x90#8, 0xF0#8] ++ [0x20#8, 0x60#8, 0x20#8, 0x20#8, 0x70#8]
    ++ [0xF0#8, 0x10#8, 0xF0#8, 0x80#8, 0xF0#8] ++ [0xF0#8, 0x10#8, 0xF0#8, 0x10#8, 0xF0#8]
    ++ [0x90#8, 0x90#8, 0xF0#8, 0x10#8, 0x10#8] ++ [0xF0#8, 0x80#8, 0xF0#8, 0x10#8, 0xF0#8]
    ++ [0xF0#8, 0x80#8, 0xF0#8, 0x90#8, 0xF0#8] ++ [0xF0#8, 0x10#8, 0x20#8, 0x40#8, 0x40#8]
    ++ [0xF0#8, 0x90#8, 0xF0#8, 0x90#8, 0xF0#8] ++ [0xF0#8, 0x90#8, 0xF0#8, 0x10#8, 0xF0#8]
    ++ [0xF0#8, 0x90#8, 0xF0#8, 0x90#8, 0x90#8] ++ [0xE0#8, 0x90#8, 0xE0#8, 0x90#8, 0xE0#8]
    ++ [0xF0#8, 0x80#8, 0x80#8, 0x80#8, 0xF0#8] ++ [0xE0#8, 0x90#8, 0x90#8, 0x90#8, 0xE0#8]
    ++ [0xF0#8, 0x80#8, 0xF0#8, 0x80#8, 0xF0#8] ++ [0xF0#8, 0x80#8, 0xF0#8, 0x80#8, 0x80#8]

/-- KEY_SELECT: the default `any` (45_keys_timers.md R198, decision D11). Log entry 3. -/
def keySelect : Config.KeySelect := .any

/-- TIMER_TICK: the documented configuration `none` (60_exceptions.md R210, decision D10). Log entry 5. -/
def timerTick : Config.TimerTick := .none

/-- The documented configuration. -/
def documented : Config.Parameters where
  font := ⟨font.toArray, rfl⟩
  keySelect := keySelect
  timerTick := timerTick

end Sys2Proof.Machine
end

