-- ==== Sys2Proof/Machine/Ops.lean ====
section
/-! DEFINITION. The named operations over memory, registers, stack, display and keys, and taking a fault. -/

namespace Sys2Proof.Machine

/-! ### Memory (20_memory.md) -/

/-- What an unlisted address reads as: the reset contents, FONT at 0x050 to 0x09F and 0 elsewhere
(70_reset_and_hazards.md R231). It is the form memory is written down in, under every FONT: another table's bytes are
listed where they differ (`fontMemory`). -/
def memResetByte (a : Nat) : Byte :=
  if Config.fontBase ≤ a ∧ a < Config.fontBase + 80 then font.getD (a - Config.fontBase) 0#8 else 0#8

/-- The canonical form: addresses strictly rising and below 4096, and no cell equal to what its address reads as
unlisted. -/
abbrev Memory.wf (m : Memory) : Prop :=
  m.Pairwise (fun c d => c.1 < d.1) ∧ ∀ c ∈ m, c.1 < Config.memSize ∧ c.2 ≠ memResetByte c.1

/-- The byte at an address, `Mem[a]` (R53). -/
def Memory.get : Memory → Nat → Byte
  | [], a => memResetByte a
  | (b, v) :: rest, a => if b = a then v else Memory.get rest a

/-- List a cell, in the place that keeps the addresses rising. -/
def Memory.insertCell (a : Nat) (v : Byte) : Memory → Memory
  | [] => [(a, v)]
  | (b, w) :: rest =>
    if a < b then (a, v) :: (b, w) :: rest
    else if a = b then (a, v) :: rest
    else (b, w) :: Memory.insertCell a v rest

/-- Unlist a cell. -/
def Memory.eraseCell (a : Nat) : Memory → Memory
  | [] => []
  | (b, w) :: rest => if a = b then rest else (b, w) :: Memory.eraseCell a rest

/-- `Mem[a] <- v` (R53), in the canonical form. The range is checked by `readBlock`, `writeBlock` and `fetchWord`;
outside it there is nothing to write. -/
def Memory.put (a : Nat) (v : Byte) (m : Memory) : Memory :=
  if a < Config.memSize then
    if v = memResetByte a then m.eraseCell a else m.insertCell a v
  else m

/-- The lowest address of the block `base .. base + len - 1` that is 4096 or more, if there is one. Addresses are exact
naturals, never reduced (R54). -/
def lowestOutOfRange (base len : Nat) : Option Nat :=
  if len = 0 ∨ base + len ≤ Config.memSize then none else some (max base Config.memSize)

/-- The bytes at `base`, `base + 1`, … in ascending order. -/
def Memory.getBlock (m : Memory) (base len : Nat) : List Byte :=
  (List.range len).map fun k => m.get (base + k)

/-- Bytes stored at `base`, `base + 1`, … in ascending order (R55, R61). -/
def Memory.putBlock (base : Nat) : List Byte → Memory → Memory
  | [], m => m
  | b :: rest, m => Memory.putBlock (base + 1) rest (m.put base b)

/-- The memory a reset leaves under a FONT: its 80 bytes at 0x050 to 0x09F and 0 elsewhere (70_reset_and_hazards.md
R231). Under the documented FONT nothing is listed. -/
def fontMemory (font : Vector Byte 80) : Memory := Memory.putBlock Config.fontBase font.toList []

/-- `len` reads `MemRead(base + k, 1)` with every check before the first access (R53, 00_scope.md R14); the error is the
lowest out-of-range address (60_exceptions.md R203). -/
def readBlock (base len : Nat) (m : Memory) : Except Nat (List Byte) :=
  match lowestOutOfRange base len with
  | some a => .error a
  | none => .ok (m.getBlock base len)

/-- One `MemWrite(base + k, 1, _)` per byte with every check before the first write (R53, 00_scope.md R14). -/
def writeBlock (base : Nat) (bytes : List Byte) (m : Memory) : Except Nat Memory :=
  match lowestOutOfRange base bytes.length with
  | some a => .error a
  | none => .ok (m.putBlock base bytes)

/-! ### Registers -/

/-- VF is `V[15]` (10_state.md R22). -/
def vF : RegIx := 0xF#4

/-- `V[r]` (R21). -/
def State.readV (r : RegIx) (s : State) : Byte := s.v[r.toNat]'r.isLt

/-- `V[r] <- b` (R21). -/
def State.writeV (r : RegIx) (b : Byte) (s : State) : State := { s with v := s.v.set r.toNat b r.isLt }

/-- `I <- a` (R25). -/
def State.setI (a : Word) (s : State) : State := { s with i := a }

/-- `pc <- a` (R24). -/
def State.setPc (a : Word) (s : State) : State := { s with pc := a }

/-- `DT <- b` (R28). -/
def State.setDt (b : Byte) (s : State) : State := { s with dt := b }

/-- `ST <- b` (R29). -/
def State.setSt (b : Byte) (s : State) : State := { s with st := b }

/-- `Mem` as a whole, after a block of writes (R30). -/
def State.setMem (m : Memory) (s : State) : State := { s with mem := m }

/-- `Disp` as a whole, after a drawing (R32). -/
def State.setDisp (d : Display) (s : State) : State := { s with disp := d }

/-- `dirty <- b` (R33). -/
def State.setDirty (b : Bool) (s : State) : State := { s with dirty := b }

/-- `Keys`, written by the host only (R34). -/
def State.setKeys (k : Vector Bool 16) (s : State) : State := { s with keys := k }

/-- `run <- r` (R37). -/
def State.setRun (r : RunState) (s : State) : State := { s with run := r }

/-- One free value has been drawn: the next draw is another one. -/
def State.nextDraw (s : State) : State := { s with draws := s.draws + 1 }

/-! ### The program counter -/

/-- `pc <- u16(addr + 2)` after a fetch (40_cycle.md R103). -/
def State.advancePc (s : State) : State := s.setPc (s.pc + 2#16)

/-- A skip adds 2 to pc after the fetch's own advance (42_flow.md R138). -/
def State.skipIf (c : Bool) (s : State) : State := if c then s.setPc (s.pc + 2#16) else s

/-- The address of the word being executed: the fetch has advanced pc by 2 (00_scope.md R15, 40_cycle.md R103). -/
def State.execAddr (s : State) : Word := s.pc - 2#16

/-- The key wait's rewind, `pc <- u16(pc - 2)` (45_keys_timers.md R193). -/
def State.rewindPc (s : State) : State := s.setPc s.execAddr

/-! ### Taking a fault (60_exceptions.md R201) -/

/-- The cause's code (60_exceptions.md R202). -/
def FaultCause.code : FaultCause → Nat
  | .fetchOutOfRange => 1
  | .memReadOutOfRange => 2
  | .memWriteOutOfRange => 3
  | .stackOverflow => 4
  | .stackUnderflow => 5
  | .keyIndexOutOfRange => 6

/-- Fault entry: pc is left at `addr`, `run` becomes Faulted with its record, and nothing else is written. There is
no vector, no saved status and no mode (R204). -/
def State.enterFaulted (cause : FaultCause) (addr : Word) (info : Nat) (s : State) : State :=
  (s.setPc addr).setRun (.faulted ⟨cause, addr, info⟩)

/-- A meaning's `raise Fault(cause, info)` (00_scope.md R13): the faulting instruction is the one being executed. -/
def raiseFault (cause : FaultCause) (info : Nat) (s : State) : Host.Outcome State Fault Refusal :=
  .next (s.enterFaulted cause s.execAddr info)

/-- The machine right after reset under any configuration: of the parameters, a reset uses FONT only
(70_reset_and_hazards.md R231). `State.reset` is the one of the documented configuration. -/
def State.resetUnder (p : Config.Parameters) : State := { State.reset with mem := fontMemory p.font }

/-- Leaving the Faulted state. There is no return from a fault (R205): reset alone leaves it, with the effect of every
reset (70_reset_and_hazards.md R230). The model's own counter of draws goes on, so that no draw is repeated. -/
def State.resetAgain (p : Config.Parameters) (s : State) : State := { State.resetUnder p with draws := s.draws }

/-! ### The fetch (40_cycle.md R101) -/

/-- The instruction word at pc, big-endian; none where its second byte would be at 0x1000 or beyond. -/
def State.fetchWord (s : State) : Option Word :=
  if s.pc.toNat + 1 < Config.memSize then
    some (wordOfBytes (s.mem.get s.pc.toNat) (s.mem.get (s.pc.toNat + 1)))
  else none

/-- The fetch's fault: the address and the info are the pc (60_exceptions.md R202). -/
def State.fetchFault (s : State) : State := s.enterFaulted .fetchOutOfRange s.pc s.pc.toNat

/-! ### The call stack (42_flow.md R130, R132) -/

/-- `Stack[SP] <- a; SP <- SP + 1`; none at SP = 16. -/
def State.push (a : Word) (s : State) : Option State :=
  if h : s.sp.val < 16 then
    some { s with stack := s.stack.set s.sp.val a h, sp := ⟨s.sp.val + 1, by omega⟩ }
  else none

/-- `SP <- SP - 1`, and the entry it then names; none at SP = 0. The entry keeps its value (10_state.md R27). -/
def State.pop (s : State) : Option (Word × State) :=
  if h : s.sp.val = 0 then none
  else some (s.stack[s.sp.val - 1]'(by omega), { s with sp := ⟨s.sp.val - 1, by omega⟩ })

/-! ### The display (10_state.md R32) -/

/-- `Disp[x][y]`. -/
def Display.pixel (d : Display) (x : Fin 64) (y : Fin 32) : Bool := (d[y.val])[x.val]

/-- `Disp[x][y] <- not Disp[x][y]` (41_display.md R124). -/
def Display.toggle (x : Fin 64) (y : Fin 32) (d : Display) : Display :=
  d.set y.val ((d[y.val]).set x.val (!d.pixel x y))

/-- Every pixel off (41_display.md R120). -/
def Display.blank : Display := Vector.replicate 32 (Vector.replicate 64 false)

/-! ### Keys (10_state.md R34) -/

/-- The set P of 45_keys_timers.md R193, in rising order. -/
def State.pressedKeys (s : State) : List (Fin 16) := (List.finRange 16).filter fun k => s.keys[k.val]

/-- `choose(P)` (R198): under `any` a member the free value picks, under `lowest` the least; none where P is empty. -/
def chooseKey (mode : Config.KeySelect) (pick : Nat) (pressed : List (Fin 16)) : Option (Fin 16) :=
  match mode with
  | .any => pressed[pick % pressed.length]?
  | .lowest => pressed.head?

/-! ### Outputs to the host (60_exceptions.md R220) -/

/-- `display_changed` at the end of a cycle: the value of `dirty` (40_cycle.md R106). -/
def State.displayChanged (s : State) : Bool := s.dirty

/-- `run_state` as numbers: code, addr, info; code 0 is Running (60_exceptions.md R202, R220). -/
def State.runOutput (s : State) : Nat × Nat × Nat :=
  match s.run with
  | .running => (0, 0, 0)
  | .faulted r => (r.cause.code, r.addr.toNat, r.info)

end Sys2Proof.Machine
end

