-- ==== Sys2Proof/Machine/Operands.lean ====
section
/-! DEFINITION. The operand forms (30_encoding.md R74, R75) and the data addresses (44_index_memory.md R176). -/

namespace Sys2Proof.Machine

/-- `zext_16(nnn)` (R74). -/
def addrOperand (nnn : Addr12) : Word := nnn.setWidth 16

/-- `zext_16(v)`: a register's byte as a 16-bit value (R74, 00_scope.md R12). -/
def zextByte (b : Byte) : Word := b.setWidth 16

/-- The target of `Bnnn`: `u16(zext_16(nnn) + zext_16(V[0]))` (42_flow.md R137). -/
def offsetTarget (nnn : Addr12) (v0 : Byte) : Word := addrOperand nnn + zextByte v0

/-- `u16(I + zext_16(V[x]))`, with no mask to 12 bits (44_index_memory.md R171). -/
def indexPlus (i : Word) (b : Byte) : Word := i + zextByte b

/-- The address of the glyph of a value, by the formula on all of its bits: `0x050 + 5 × V[x]` (R172). -/
def glyphAddr (b : Byte) : Word := BitVec.ofNat 16 (Config.fontBase + 5 * b.toNat)

/-- The decimal digits of a byte, hundreds first (R173). -/
def bcdDigits (b : Byte) : List Byte :=
  [BitVec.ofNat 8 (b.toNat / 100), BitVec.ofNat 8 (b.toNat / 10 % 10), BitVec.ofNat 8 (b.toNat % 10)]

/-- The registers V0 to Vx, inclusive (R174). -/
def State.regBlock (x : RegIx) (s : State) : List Byte := s.v.toList.take (x.toNat + 1)

/-- `V[k] <- byte k` for each byte of the list, from V0 on (R175); the registers above keep their values. -/
def State.loadBlock (bytes : List Byte) (s : State) : State :=
  { s with v := Vector.ofFn fun k : Fin 16 => bytes.getD k.val s.v[k.val] }

/-- The key a register names, by the whole of its 8 bits; none above 15 (45_keys_timers.md R196). -/
def keyIndex (b : Byte) : Option (Fin 16) := if h : b.toNat < 16 then some ⟨b.toNat, h⟩ else none

/-- The origin column of a sprite: `V[x] mod 64` (41_display.md R123). -/
def originX (b : Byte) : Nat := b.toNat % 64

/-- The origin row of a sprite: `V[y] mod 32` (41_display.md R123). -/
def originY (b : Byte) : Nat := b.toNat % 32

/-- Column `c` of a sprite row is bit `7 - c` (41_display.md R122). -/
def spriteBit (row : Byte) (c : Nat) : Bool := row.getLsbD (7 - c)

end Sys2Proof.Machine
end

