-- ==== Sys2Proof/Machine/Flags.lean ====
section
/-! DEFINITION. The values written to VF as a flag (10_state.md R22). There is no other flag (R35). -/

namespace Sys2Proof.Machine

/-- A flag's byte: 1 or 0. -/
def flagByte (b : Bool) : Byte := if b then 1#8 else 0#8

/-- `8xy4`: 1 where the exact sum exceeds 255 (43_alu.md R157). -/
def carryFlag (a b : Byte) : Byte := flagByte (decide (255 < a.toNat + b.toNat))

/-- `8xy5` for a − b, `8xy7` for its own a − b: 0 where the subtraction borrows, else 1 (R158, R160). -/
def notBorrowFlag (a b : Byte) : Byte := flagByte (!decide (a.toNat < b.toNat))

/-- `8xy6` and `8xyE`: bit 0 of the value before the shift, for both (R159, R161). -/
def lowBitFlag (a : Byte) : Byte := a &&& 1#8

/-- `Dxyn`: 1 where a pixel that was on was turned off (41_display.md R126). -/
def collisionFlag (hit : Bool) : Byte := flagByte hit

end Sys2Proof.Machine
end

