-- ==== Sys2Proof/Machine/Alu.lean ====
section
/-! DEFINITION. Register arithmetic and logic (43_alu.md). Statements run in the order the rule writes them and a read
sees earlier writes (00_scope.md R14), which decides every case where x or y is VF. -/

namespace Sys2Proof.Machine

/-- `6xnn`: `V[x] <- nn` (R151). -/
def execLdImm (x : RegIx) (nn : Byte) (s : State) : Host.Outcome State Fault Refusal :=
  .next (s.writeV x nn)

/-- `7xnn`: `V[x] <- u8(V[x] + nn)`, no flag (R152). -/
def execAddImm (x : RegIx) (nn : Byte) (s : State) : Host.Outcome State Fault Refusal :=
  .next (s.writeV x (s.readV x + nn))

/-- `8xy0`: `V[x] <- V[y]` (R153). -/
def execLdReg (x y : RegIx) (s : State) : Host.Outcome State Fault Refusal :=
  .next (s.writeV x (s.readV y))

/-- `8xy1`: `V[x] <- V[x] | V[y]`; VF is not reset (R154). -/
def execOrReg (x y : RegIx) (s : State) : Host.Outcome State Fault Refusal :=
  .next (s.writeV x (s.readV x ||| s.readV y))

/-- `8xy2`: `V[x] <- V[x] & V[y]`; VF is not reset (R155). -/
def execAndReg (x y : RegIx) (s : State) : Host.Outcome State Fault Refusal :=
  .next (s.writeV x (s.readV x &&& s.readV y))

/-- `8xy3`: `V[x] <- V[x] ^ V[y]`; VF is not reset (R156). -/
def execXorReg (x y : RegIx) (s : State) : Host.Outcome State Fault Refusal :=
  .next (s.writeV x (s.readV x ^^^ s.readV y))

/-- `8xy4`: the sum first, then VF = carry (R157). -/
def execAddReg (x y : RegIx) (s : State) : Host.Outcome State Fault Refusal :=
  let carry := carryFlag (s.readV x) (s.readV y)
  .next ((s.writeV x (s.readV x + s.readV y)).writeV vF carry)

/-- `8xy5`: VF = NOT borrow first, then the difference of the values read after it (R158). -/
def execSub (x y : RegIx) (s : State) : Host.Outcome State Fault Refusal :=
  let s₁ := s.writeV vF (notBorrowFlag (s.readV x) (s.readV y))
  .next (s₁.writeV x (s₁.readV x - s₁.readV y))

/-- `8xy6`: VF = old bit 0 first, then the logical shift right of Vx; y is not used (R159). -/
def execShr (x _y : RegIx) (s : State) : Host.Outcome State Fault Refusal :=
  let s₁ := s.writeV vF (lowBitFlag (s.readV x))
  .next (s₁.writeV x (s₁.readV x >>> 1))

/-- `8xy7`: VF = NOT borrow of Vy − Vx first, then the difference of the values read after it (R160). -/
def execSubn (x y : RegIx) (s : State) : Host.Outcome State Fault Refusal :=
  let s₁ := s.writeV vF (notBorrowFlag (s.readV y) (s.readV x))
  .next (s₁.writeV x (s₁.readV y - s₁.readV x))

/-- `8xyE`: VF = old bit 0, "not the high bit", then the shift left of Vx kept to 8 bits; y is not used (R161). -/
def execShl (x _y : RegIx) (s : State) : Host.Outcome State Fault Refusal :=
  let s₁ := s.writeV vF (lowBitFlag (s.readV x))
  .next (s₁.writeV x (s₁.readV x <<< 1))

/-- `Cxnn`: `V[x] <- nn & Rand()`, the byte being a free value drawn anew (R162, R163). -/
def execRnd (x : RegIx) (nn : Byte) (s : State) : Host.Outcome State Fault Refusal :=
  .next (s.writeV x (nn &&& Config.randByte s.draws)).nextDraw

end Sys2Proof.Machine
end

