-- ==== Sys2Proof/Machine/Display.lean ====
section
/-! DEFINITION. Display instructions and the sprite engine (41_display.md). -/

namespace Sys2Proof.Machine

/-- What the draw loop carries: the pixels, and whether an on pixel has been turned off (R124). -/
structure Canvas where
  disp : Display
  hit : Bool
deriving DecidableEq, Repr

/-- One set sprite bit at column `px`, row `py`: a pixel outside the display is clipped, one inside is toggled, with a
collision if it was on (R124). -/
def plotPixel (px py : Nat) (d : Canvas) : Canvas :=
  if hx : px < 64 then
    if hy : py < 32 then
      ⟨d.disp.toggle ⟨px, hx⟩ ⟨py, hy⟩, d.hit || d.disp.pixel ⟨px, hx⟩ ⟨py, hy⟩⟩
    else d
  else d

/-- One sprite row: columns 0 to 7 from `x0` on, of which only the set bits act (R122, R124). Clipping each column past
63 is the rule's "remaining columns of that row are skipped", since columns rise. -/
def drawRow (row : Byte) (x0 py : Nat) (d : Canvas) : Canvas :=
  (List.range 8).foldl (fun d c => if spriteBit row c then plotPixel (x0 + c) py d else d) d

/-- The sprite rows one below the other from `py` on (R124). -/
def drawRows (x0 : Nat) : List Byte → Nat → Canvas → Canvas
  | [], _, d => d
  | row :: rest, py, d => drawRows x0 rest (py + 1) (drawRow row x0 py d)

/-- `00E0`: every pixel off, dirty set always (R120). -/
def execCls (s : State) : Host.Outcome State Fault Refusal :=
  .next ((s.setDisp Display.blank).setDirty true)

/-- `Dxyn`: the origin is read before VF is written (R129), all n bytes are checked and read, clipped rows too (R128), VF
becomes the collision flag (R126) and dirty is set (R127). -/
def execDrw (x y : RegIx) (n : Nibble) (s : State) : Host.Outcome State Fault Refusal :=
  match readBlock s.i.toNat n.toNat s.mem with
  | .error a => raiseFault .memReadOutOfRange a s
  | .ok rows =>
    let d := drawRows (originX (s.readV x)) rows (originY (s.readV y)) ⟨s.disp, false⟩
    .next (((s.writeV vF (collisionFlag d.hit)).setDisp d.disp).setDirty true)

end Sys2Proof.Machine
end

