-- ==== Sys2Proof/Machine/Flow.lean ====
section
/-! DEFINITION. Control transfer, skips and the call stack (42_flow.md), and the no-op words (40_cycle.md R107). No
control transfer checks its target (R139). -/

namespace Sys2Proof.Machine

/-- `00EE`: `SP <- SP - 1; pc <- Stack[SP]`, or StackUnderflow at SP = 0 (R130). -/
def execRet (s : State) : Host.Outcome State Fault Refusal :=
  match s.pop with
  | none => raiseFault .stackUnderflow 0 s
  | some (a, s₁) => .next (s₁.setPc a)

/-- `1nnn`: `pc <- zext_16(nnn)` (R131). -/
def execJp (nnn : Addr12) (s : State) : Host.Outcome State Fault Refusal :=
  .next (s.setPc (addrOperand nnn))

/-- `2nnn`: `Stack[SP] <- pc; SP <- SP + 1; pc <- zext_16(nnn)`, or StackOverflow at SP = 16 (R132). -/
def execCall (nnn : Addr12) (s : State) : Host.Outcome State Fault Refusal :=
  match s.push s.pc with
  | none => raiseFault .stackOverflow 16 s
  | some s₁ => .next (s₁.setPc (addrOperand nnn))

/-- `3xnn`: skip if `V[x] = nn` (R133). -/
def execSeImm (x : RegIx) (nn : Byte) (s : State) : Host.Outcome State Fault Refusal :=
  .next (s.skipIf (s.readV x == nn))

/-- `4xnn`: skip if `V[x] ≠ nn` (R134). -/
def execSneImm (x : RegIx) (nn : Byte) (s : State) : Host.Outcome State Fault Refusal :=
  .next (s.skipIf (s.readV x != nn))

/-- `5xy0`: skip if `V[x] = V[y]` (R135). -/
def execSeReg (x y : RegIx) (s : State) : Host.Outcome State Fault Refusal :=
  .next (s.skipIf (s.readV x == s.readV y))

/-- `9xy0`: skip if `V[x] ≠ V[y]` (R136). -/
def execSneReg (x y : RegIx) (s : State) : Host.Outcome State Fault Refusal :=
  .next (s.skipIf (s.readV x != s.readV y))

/-- `Bnnn`: `pc <- u16(zext_16(nnn) + zext_16(V[0]))` (R137). -/
def execJpV0 (nnn : Addr12) (s : State) : Host.Outcome State Fault Refusal :=
  .next (s.setPc (offsetTarget nnn (s.readV 0#4)))

/-- A word no row of R77 selects: nothing changes but the pc, which the fetch has advanced (40_cycle.md R107). -/
def execUnmatched (_w : Word) (s : State) : Host.Outcome State Fault Refusal := .next s

/-- `0nnn`: an unmatched word too, in the no-op row of the opcode table (30_encoding.md R82). -/
def execSys (_nnn : Addr12) (s : State) : Host.Outcome State Fault Refusal := .next s

end Sys2Proof.Machine
end

