-- ==== Sys2Proof/Machine/IndexMemory.lean ====
section
/-! DEFINITION. The index register and memory transfers (44_index_memory.md). None of them changes I but those that
name it as their destination. -/

namespace Sys2Proof.Machine

/-- `Annn`: `I <- zext_16(nnn)` (R170). -/
def execLdI (nnn : Addr12) (s : State) : Host.Outcome State Fault Refusal :=
  .next (s.setI (addrOperand nnn))

/-- `Fx1E`: `I <- u16(I + zext_16(V[x]))`; VF is not written (R171). -/
def execAddI (x : RegIx) (s : State) : Host.Outcome State Fault Refusal :=
  .next (s.setI (indexPlus s.i (s.readV x)))

/-- `Fx29`: `I <- 0x050 + 5 × V[x]` (R172). -/
def execLdF (x : RegIx) (s : State) : Host.Outcome State Fault Refusal :=
  .next (s.setI (glyphAddr (s.readV x)))

/-- A store of bytes from I on, or the fault MemWriteOutOfRange with nothing written (20_memory.md R53). -/
def storeAtI (bytes : List Byte) (s : State) : Host.Outcome State Fault Refusal :=
  match writeBlock s.i.toNat bytes s.mem with
  | .error a => raiseFault .memWriteOutOfRange a s
  | .ok m => .next (s.setMem m)

/-- `Fx33`: the decimal digits of Vx at I, I+1, I+2 (R173). -/
def execLdB (x : RegIx) (s : State) : Host.Outcome State Fault Refusal :=
  storeAtI (bcdDigits (s.readV x)) s

/-- `Fx55`: V0 to Vx at I, I+1, … (R174). -/
def execStoreRegs (x : RegIx) (s : State) : Host.Outcome State Fault Refusal :=
  storeAtI (s.regBlock x) s

/-- `Fx65`: V0 to Vx from I, I+1, …, or the fault MemReadOutOfRange with no register written (R175). -/
def execLoadRegs (x : RegIx) (s : State) : Host.Outcome State Fault Refusal :=
  match readBlock s.i.toNat (x.toNat + 1) s.mem with
  | .error a => raiseFault .memReadOutOfRange a s
  | .ok bytes => .next (s.loadBlock bytes)

end Sys2Proof.Machine
end

