-- ==== Sys2Proof/Machine/KeysTimers.lean ====
section
/-! DEFINITION. Key matrix and timer instructions (45_keys_timers.md). -/

namespace Sys2Proof.Machine

/-- `Ex9E`: skip if the key that Vx names is pressed, or KeyIndexOutOfRange for Vx > 15 (R190, R196). -/
def execSkp (x : RegIx) (s : State) : Host.Outcome State Fault Refusal :=
  match keyIndex (s.readV x) with
  | none => raiseFault .keyIndexOutOfRange (s.readV x).toNat s
  | some k => .next (s.skipIf s.keys[k.val])

/-- `ExA1`: skip if the key that Vx names is not pressed, or KeyIndexOutOfRange for Vx > 15 (R191, R196). -/
def execSknp (x : RegIx) (s : State) : Host.Outcome State Fault Refusal :=
  match keyIndex (s.readV x) with
  | none => raiseFault .keyIndexOutOfRange (s.readV x).toNat s
  | some k => .next (s.skipIf (!s.keys[k.val]))

/-- `Fx07`: `V[x] <- DT` (R192). -/
def execLdVxDT (x : RegIx) (s : State) : Host.Outcome State Fault Refusal :=
  .next (s.writeV x s.dt)

/-- `Fx0A` under a setting of KEY_SELECT: with no key pressed the pc goes back to this instruction and nothing else is
written; else `V[x] <- choose(P)`, the choice being a free value drawn anew (R193, R198). -/
def execLdVxKUnder (select : Config.KeySelect) (x : RegIx) (s : State) : Host.Outcome State Fault Refusal :=
  match chooseKey select (Config.keyPick s.draws) s.pressedKeys with
  | none => .next s.rewindPc
  | some k => .next (s.writeV x (BitVec.ofNat 8 k.val)).nextDraw

/-- `Fx0A` under the documented KEY_SELECT (R193, R198). -/
def execLdVxK (x : RegIx) (s : State) : Host.Outcome State Fault Refusal := execLdVxKUnder keySelect x s

/-- `Fx15`: `DT <- V[x]` (R194). -/
def execLdDTVx (x : RegIx) (s : State) : Host.Outcome State Fault Refusal :=
  .next (s.setDt (s.readV x))

/-- `Fx18`: `ST <- V[x]` (R195). -/
def execLdSTVx (x : RegIx) (s : State) : Host.Outcome State Fault Refusal :=
  .next (s.setSt (s.readV x))

end Sys2Proof.Machine
end

