-- ==== Sys2Proof/Machine/Configured.lean ====
section
/-! DEFINITION. The executor under any configuration (00_scope.md R9). -/

namespace Sys2Proof.Machine

/-- Execute one instruction under a configuration. Of the parameters an instruction depends on KEY_SELECT only, and only
`Fx0A` does (45_keys_timers.md R198); FONT is used by reset and TIMER_TICK by the host. -/
def execUnder (p : Config.Parameters) (i : Instr) (s : State) : Host.Outcome State Fault Refusal :=
  match i with
  | .ldVxK x => execLdVxKUnder p.keySelect x s
  | .cls | .ret | .jp _ | .call _ | .seImm _ _ | .sneImm _ _ | .seReg _ _ | .ldImm _ _ | .addImm _ _
  | .ldReg _ _ | .orReg _ _ | .andReg _ _ | .xorReg _ _ | .addReg _ _ | .sub _ _ | .shr _ _ | .subn _ _
  | .shl _ _ | .sneReg _ _ | .ldI _ | .jpV0 _ | .rnd _ _ | .drw _ _ _ | .skp _ | .sknp _ | .ldVxDT _
  | .ldDTVx _ | .ldSTVx _ | .addI _ | .ldF _ | .ldB _ | .storeRegs _ | .loadRegs _ | .sys _ => exec i s

end Sys2Proof.Machine
end

