-- ==== Sys2Proof/Machine/Step.lean ====
section
/-! DEFINITION. One cycle (40_cycle.md R111). -/

namespace Sys2Proof.Machine

/-- One cycle with an executor, while Running: fetch, advance, decode, execute (R111). In the Faulted state the engine
takes no cycle (60_exceptions.md R201): the step stops, and the record is the reason. -/
def cycleWith (execute : Instr → State → Host.Outcome State Fault Refusal) (s : State) :
    Host.Outcome State Fault Refusal :=
  match s.run with
  | .faulted record => .fault (.engineFaulted record)
  | .running =>
    match s.fetchWord with
    | none => .next s.fetchFault
    | some w =>
      match decodeWord w with
      | .ok i => execute i s.advancePc
      | .error _ => execUnmatched w s.advancePc

/-- One cycle of the machine, in the documented configuration. -/
def step (s : State) : Host.Outcome State Fault Refusal := cycleWith exec s

/-- One cycle under any configuration (00_scope.md R9). -/
def stepUnder (p : Config.Parameters) (s : State) : Host.Outcome State Fault Refusal := cycleWith (execUnder p) s

/-- The row's word `w` of `nbits` bits stored, big-endian, where the next fetch reads it: at pc and pc + 1. Nothing else
changes. It stands for the host's load of a program (60_exceptions.md R221, log entry 6). -/
def State.withFetchWord (s : State) (nbits w : Nat) : State :=
  let word : Word := BitVec.ofNat 16 (w % 2 ^ nbits)
  s.setMem ((s.mem.put s.pc.toNat (highByte word)).put (s.pc.toNat + 1) (lowByte word))

end Sys2Proof.Machine
end

