-- ==== Sys2Proof/Machine/Environment.lean ====
section
/-! DEFINITION. The host's actions between two cycles, and a run of cycles and host actions (60_exceptions.md R220 to
R225). The host never acts during a cycle: the model has no such move (R225). -/

namespace Sys2Proof.Machine

/-- What the host may do between two cycles (R220, R225). -/
inductive HostAction where
  /-- `reset`, at any time (70_reset_and_hazards.md R230) -/
  | reset
  /-- `keys_in`: the key matrix becomes any 16 booleans (R223) -/
  | setKeys (keys : Vector Bool 16)
  /-- `mem_write`: any byte at any address 0x000 to 0xFFF (R224) -/
  | memWrite (a : Addr12) (b : Byte)
  /-- the loader: byte `k` of the image at 0x200 + k (R221, 70_reset_and_hazards.md R234) -/
  | load (image : List Byte)
  /-- `timer_tick`, only if TIMER_TICK = external (R210) -/
  | timerTick
  /-- `dirty_clear` (R222) -/
  | dirtyClear
deriving DecidableEq, Repr

/-- A decrement that stops at 0 (R210). -/
def tickDown (b : Byte) : Byte := if b = 0#8 then 0#8 else b - 1#8

/-- TimerTick (R210): DT and ST each decremented if non-zero. -/
def State.tick (s : State) : State := (s.setDt (tickDown s.dt)).setSt (tickDown s.st)

/-- The largest image the loader's contract admits: `4096 − 0x200` bytes (R221). -/
def maxImage : Nat := Config.memSize - Config.programBase

/-- A host action under a configuration. A tick that TIMER_TICK excludes and an image outside the loader's contract are
refused. DESIGN CHOICE, log entry 20: the spec does not say whether the host may act on a Faulted engine otherwise than by
reading and by reset (10_state.md R37, 20_memory.md R66, 60_exceptions.md R201, R220, R225); here every action has the same
effect in the Faulted state as in the Running one, and only reset changes `run`. -/
def hostActUnder (p : Config.Parameters) (a : HostAction) (s : State) : Host.Outcome State Fault Refusal :=
  match a with
  | .reset => .next (s.resetAgain p)
  | .setKeys keys => .next (s.setKeys keys)
  | .memWrite addr b => .next (s.setMem (s.mem.put addr.toNat b))
  | .load image =>
    if image.length ≤ maxImage then .next (s.setMem (s.mem.putBlock Config.programBase image))
    else .refused (.programTooLong image.length)
  | .timerTick =>
    match p.timerTick with
    | .none => .refused .timerTickNotConfigured
    | .external => .next s.tick
  | .dirtyClear => .next (s.setDirty false)

/-- A host action in the documented configuration. -/
def hostAct (a : HostAction) (s : State) : Host.Outcome State Fault Refusal := hostActUnder documented a s

/-- One move of the whole system: a cycle of the core, or an action of its host. -/
inductive Event where
  | cycle
  | host (a : HostAction)
deriving DecidableEq, Repr

/-- The effect of one move under a configuration. -/
def reactUnder (p : Config.Parameters) (e : Event) (s : State) : Host.Outcome State Fault Refusal :=
  match e with
  | .cycle => stepUnder p s
  | .host a => hostActUnder p a s

/-- A run of moves under a configuration, stopping at the first that gives no next state. -/
def runEventsUnder (p : Config.Parameters) : List Event → State → Host.Outcome State Fault Refusal
  | [], s => .next s
  | e :: rest, s =>
    match reactUnder p e s with
    | .next t => runEventsUnder p rest t
    | .fault r => .fault r
    | .refused r => .refused r

/-- A run of moves in the documented configuration. -/
def runEvents (events : List Event) (s : State) : Host.Outcome State Fault Refusal :=
  runEventsUnder documented events s

end Sys2Proof.Machine
end

