-- ==== Sys2Proof/Safety.lean ====
section
/-! DEFINITION. The terms claims use: the parts of a state, what is unchanged, which faults the spec's table names, what a
safe cycle and a safe run are, and the invariant. -/

namespace Sys2Proof.Machine

/-! ### Parts of a state, and frames -/

/-- Everything that can be read of a state, piece by piece (10_state.md R20; `draws` is the model's own). -/
inductive Part where
  | v (r : RegIx)
  | i
  | pc
  | stack (j : Fin 16)
  | sp
  | dt
  | st
  | pixel (x : Fin 64) (y : Fin 32)
  | dirty
  | key (k : Fin 16)
  | run
  | byte (a : Nat)
  | draws
deriving DecidableEq, Repr

/-- The part reads the same in `t` as in `s`. -/
def State.agreesAt (s t : State) : Part → Prop
  | .v r => t.readV r = s.readV r
  | .i => t.i = s.i
  | .pc => t.pc = s.pc
  | .stack j => t.stack[j.val] = s.stack[j.val]
  | .sp => t.sp = s.sp
  | .dt => t.dt = s.dt
  | .st => t.st = s.st
  | .pixel x y => t.disp.pixel x y = s.disp.pixel x y
  | .dirty => t.dirty = s.dirty
  | .key k => t.keys[k.val] = s.keys[k.val]
  | .run => t.run = s.run
  | .byte a => t.mem.get a = s.mem.get a
  | .draws => t.draws = s.draws

/-- The frame: every part outside the list reads the same in `t` as in `s`. -/
def UnchangedBut (parts : List Part) (s t : State) : Prop := ∀ p, p ∉ parts → s.agreesAt t p

/-- The bytes of a block of memory, as parts. -/
def bytesFrom (base len : Nat) : List Part := (List.range len).map fun k => .byte (base + k)

/-- Every pixel of the display, as parts. -/
def allPixels : List Part :=
  (List.finRange 32).flatMap fun y => (List.finRange 64).map fun x => .pixel x y

/-- The registers V0 to Vx, as parts. -/
def regsUpTo (x : RegIx) : List Part := (List.range (x.toNat + 1)).map fun k => .v (BitVec.ofNat 4 k)

/-! ### Which parts an instruction may write (10_state.md R23, R26, R27, R33, R36) -/

/-- The "writes" column of R23, with the rows it leaves to R26, R27, R32, R33 and R36 (`00E0`, `00EE`, `1nnn`, `2nnn`,
`Annn`), for an instruction that does not fault. `draws`, the model's own, belongs to the two that draw. -/
def mayWrite (i : Instr) (p : Part) : Bool :=
  match i, p with
  | .cls, .pixel _ _ | .cls, .dirty => true
  | .ret, .sp | .ret, .pc => true
  | .jp _, .pc | .jpV0 _, .pc => true
  | .call _, .stack _ | .call _, .sp | .call _, .pc => true
  | .seImm _ _, .pc | .sneImm _ _, .pc | .seReg _ _, .pc | .sneReg _ _, .pc => true
  | .skp _, .pc | .sknp _, .pc => true
  | .ldImm x _, .v r | .addImm x _, .v r | .ldReg x _, .v r => r == x
  | .orReg x _, .v r | .andReg x _, .v r | .xorReg x _, .v r => r == x
  | .addReg x _, .v r | .sub x _, .v r | .subn x _, .v r => r == x || r == vF
  | .shr x _, .v r | .shl x _, .v r => r == x || r == vF
  | .rnd x _, .v r => r == x
  | .rnd _ _, .draws => true
  | .drw _ _ _, .v r => r == vF
  | .drw _ _ _, .pixel _ _ | .drw _ _ _, .dirty => true
  | .ldVxDT x, .v r => r == x
  | .ldVxK x, .v r => r == x
  | .ldVxK _, .pc | .ldVxK _, .draws => true
  | .ldDTVx _, .dt => true
  | .ldSTVx _, .st => true
  | .ldI _, .i | .addI _, .i | .ldF _, .i => true
  | .ldB _, .byte _ | .storeRegs _, .byte _ => true
  | .loadRegs x, .v r => r.toNat ≤ x.toNat
  | _, _ => false

/-! ### Faults (60_exceptions.md R202) and safe cycles -/

/-- The lowest address of 4096 or more among `base, base + 1, …, base + len - 1`. -/
def firstBadAddress (base len : Nat) : Option Nat :=
  ((List.range len).map (base + ·)).find? fun a => 4096 ≤ a

/-- The fault table's conditions on an instruction, with the info it records. The rest of the instructions are the ones of
which the table says "No other instruction and no other condition raises a fault". -/
def faultOf (i : Instr) (s : State) : Option (FaultCause × Nat) :=
  match i with
  | .drw _ _ n => (firstBadAddress s.i.toNat n.toNat).map fun a => (.memReadOutOfRange, a)
  | .loadRegs x => (firstBadAddress s.i.toNat (x.toNat + 1)).map fun a => (.memReadOutOfRange, a)
  | .ldB _ => (firstBadAddress s.i.toNat 3).map fun a => (.memWriteOutOfRange, a)
  | .storeRegs x => (firstBadAddress s.i.toNat (x.toNat + 1)).map fun a => (.memWriteOutOfRange, a)
  | .call _ => if s.sp = 16 then some (.stackOverflow, 16) else none
  | .ret => if s.sp = 0 then some (.stackUnderflow, 0) else none
  | .skp x | .sknp x =>
    if 15 < (s.readV x).toNat then some (.keyIndexOutOfRange, (s.readV x).toNat) else none
  | .cls | .jp _ | .seImm _ _ | .sneImm _ _ | .seReg _ _ | .ldImm _ _ | .addImm _ _ | .ldReg _ _
  | .orReg _ _ | .andReg _ _ | .xorReg _ _ | .addReg _ _ | .sub _ _ | .shr _ _ | .subn _ _
  | .shl _ _ | .sneReg _ _ | .ldI _ | .jpV0 _ | .rnd _ _ | .ldVxDT _ | .ldVxK _ | .ldDTVx _
  | .ldSTVx _ | .addI _ | .ldF _ | .sys _ => none

/-- The word at pc and the byte after it, big-endian, whatever the pc is. -/
def State.wordAtPc (s : State) : Word :=
  wordOfBytes (s.mem.get s.pc.toNat) (s.mem.get (s.pc.toNat + 1))

/-- The fault of the next cycle, if it has one: the fetch comes first, and an unmatched word has none (R203). -/
def State.cycleFault (s : State) : Option (FaultCause × Nat) :=
  if 0xFFE < s.pc.toNat then some (.fetchOutOfRange, s.pc.toNat)
  else
    match decodeWord s.wordAtPc with
    | .ok i => faultOf i s
    | .error _ => none

/-- The next cycle runs without a fault: what the software owes by 70_reset_and_hazards.md R236. -/
def State.safeCycle (s : State) : Prop := s.run = .running ∧ s.cycleFault = none

/-- A safe run of `n` cycles: Running throughout, the end included. -/
def StaysRunning : Nat → State → Prop
  | 0, s => s.run = .running
  | n + 1, s => s.run = .running ∧ ∃ t, step s = .next t ∧ StaysRunning n t

/-- A word of one of the sets of 30_encoding.md R79. -/
abbrev UnmatchedWord (w : Word) : Prop :=
  (fieldCode w = 0x0#4 ∧ w ≠ 0x00E0#16 ∧ w ≠ 0x00EE#16)
    ∨ (fieldCode w = 0x5#4 ∧ fieldN w ≠ 0x0#4)
    ∨ (fieldCode w = 0x8#4 ∧ fieldN w ∈ [0x8#4, 0x9#4, 0xA#4, 0xB#4, 0xC#4, 0xD#4, 0xF#4])
    ∨ (fieldCode w = 0x9#4 ∧ fieldN w ≠ 0x0#4)
    ∨ (fieldCode w = 0xE#4 ∧ fieldNN w ∉ [0x9E#8, 0xA1#8])
    ∨ (fieldCode w = 0xF#4
        ∧ fieldNN w ∉ [0x07#8, 0x0A#8, 0x15#8, 0x18#8, 0x1E#8, 0x29#8, 0x33#8, 0x55#8, 0x65#8])

/-! ### Sprites (41_display.md R122 to R124) -/

/-- A set bit of the n-row sprite at I, drawn at the origin `(V[x] mod 64, V[y] mod 32)`, falls on the pixel: bit
`7 - c` of row `r` on column `x0 + c`, row `y0 + r`. Bits outside the display fall on no pixel. -/
def SpriteCovers (s : State) (x y : RegIx) (n : Nibble) (px : Fin 64) (py : Fin 32) : Prop :=
  ∃ r c : Nat, r < n.toNat ∧ c < 8
    ∧ py.val = (s.readV y).toNat % 32 + r ∧ px.val = (s.readV x).toNat % 64 + c
    ∧ (s.mem.get (s.i.toNat + r)).getLsbD (7 - c) = true

/-! ### The invariant -/

/-- The fault record of a Faulted state fits the state, which the fault left as it was (60_exceptions.md R201, R202). -/
def State.recordFits (s : State) : Prop :=
  match s.run with
  | .running => True
  | .faulted r =>
    r.addr = s.pc ∧
      match r.cause with
      | .fetchOutOfRange => r.info = s.pc.toNat ∧ 0xFFE < r.info
      | .memReadOutOfRange | .memWriteOutOfRange => r.info = max s.i.toNat 4096
      | .stackOverflow => r.info = 16 ∧ s.sp = 16
      | .stackUnderflow => r.info = 0 ∧ s.sp = 0
      | .keyIndexOutOfRange => 15 < r.info ∧ ∃ x, r.info = (s.readV x).toNat

/-- What every reachable state keeps: memory in canonical form; pc no further than `Bnnn` can reach, so that no pc
arithmetic ever wraps (42_flow.md R137, 92_eei_decisions.md D31); return addresses no further than a fetch can advance
(40_cycle.md R103); and a fault record that fits. -/
structure Inv (s : State) : Prop where
  memCanonical : s.mem.wf
  pcBound : s.pc.toNat ≤ 0x10FE
  stackBound : ∀ j : Fin 16, (s.stack[j.val]).toNat ≤ 0x1000
  recordFits : s.recordFits

end Sys2Proof.Machine
end

