-- ==== Sys2Proof/Certificates/Slice0/Obligations.lean ====
section
/-! DEFINITION. The statements for the provers. In a statement about `exec` the state is the one an instruction is executed
in: its pc has already advanced past the instruction word (40_cycle.md R103), so "pc unchanged" is the ordinary advance.
"The spec's decision D<n>" names a choice of 92_eei_decisions.md, which is the spec's own and not its source's; "log entry
<n>" names a choice of the model, notes/assumptions/<n>.md. -/

open Sys2Proof Sys2Proof.Machine

/-! ### Encoding and decoding (30_encoding.md) -/

/-- Every well-formed instruction, with every operand at every value, encoded and decoded again is itself, whatever bytes
follow (R70, R72, R77). -/
def Obligations.DecodeOfEncodeIsTheInstruction : Prop :=
  ∀ (i : Instr) (rest : List Byte), i.wellFormed = true → decode (encodeBytes i ++ rest) = .ok (i, rest)

/-- Each word has one meaning: what a word decodes to is well formed and encodes to that word. -/
def Obligations.EncodeOfDecodeIsTheWord : Prop :=
  ∀ (w : Word) (i : Instr), decodeWord w = .ok i → i.wellFormed = true ∧ encode i = w

/-- The 34 rows of R77 are pairwise disjoint: no word is selected by two of them. -/
def Obligations.OpcodeRowsAreDisjoint : Prop :=
  opcodeMap.length = 34 ∧
    opcodeMap.Pairwise fun r q => ∀ w : Word, ¬ (r.selects w ∧ q.selects w)

/-- The two-level dispatch of R76 is the opcode map of R77: a decoded instruction's own row selects the word; a word that a
row selects decodes to an instruction of that row; and a word no row selects is unmatched, which in family 0x0 the model
renders as the no-op row `0nnn` (the spec's decision D24). -/
def Obligations.DecoderFollowsTheOpcodeMap : Prop :=
  ∀ w : Word,
    (∀ i, decodeWord w = .ok i → i.row.selects w) ∧
    (∀ r ∈ opcodeMap, r.selects w → ∃ i, decodeWord w = .ok i ∧ i.row = r) ∧
    ((∀ r ∈ opcodeMap, ¬ r.selects w) →
      (fieldCode w = 0x0#4 → decodeWord w = .ok (.sys (fieldNNN w))) ∧
      (fieldCode w ≠ 0x0#4 → decodeWord w = .error (.unmatched w)))

/-- Words written out from the spec's encodings decode to what they stand for (95_test_vectors.md). -/
def Obligations.DecoderReadsWordsOfTheSpec : Prop :=
  decodeWord 0x00E0#16 = .ok .cls ∧
  decodeWord 0x1234#16 = .ok (.jp 0x234#12) ∧
  decodeWord 0x6A42#16 = .ok (.ldImm 0xA#4 0x42#8) ∧
  decodeWord 0x801E#16 = .ok (.shl 0x0#4 0x1#4) ∧
  decodeWord 0xD125#16 = .ok (.drw 0x1#4 0x2#4 0x5#4) ∧
  decodeWord 0xF265#16 = .ok (.loadRegs 0x2#4) ∧
  decodeWord 0x5121#16 = .error (.unmatched 0x5121#16)

/-! ### The cycle (40_cycle.md) -/

/-- While Running, with pc ≤ 0xFFE: where the two bytes at pc, big-endian, decode to an instruction, the step is that
instruction executed with pc advanced by 2 and nothing else changed before it (R103, R104, R105). So it is in every
configuration, where only `Fx0A` may be executed otherwise than in the documented one (00_scope.md R9; that the machine of
the interface has the documented configuration is log entries 1, 3 and 5). -/
def Obligations.StepRunsTheDecodedInstruction : Prop :=
  ∀ (s : State) (i : Instr), s.run = .running → s.pc.toNat ≤ 0xFFE →
    decodeWord (s.mem.get s.pc.toNat ++ s.mem.get (s.pc.toNat + 1)) = .ok i →
    step s = exec i { s with pc := s.pc + 2#16 } ∧
    ∀ p : Config.Parameters, stepUnder p s = execUnder p i { s with pc := s.pc + 2#16 } ∧
      ((∀ x, i ≠ .ldVxK x) ∨ p = documented → execUnder p i = exec i)

/-- A pc above 0xFFE faults at the fetch with FetchOutOfRange, whose address and info are the pc, and nothing else
changes (the spec's decisions D30 and D4). -/
def Obligations.FetchBeyondMemoryFaults : Prop :=
  ∀ s : State, s.run = .running → 0xFFE < s.pc.toNat →
    step s = .next { s with run := .faulted ⟨.fetchOutOfRange, s.pc, s.pc.toNat⟩ }

/-- An unmatched word is a no-op: pc has advanced by 2 and nothing else changes (R107, 43_alu.md R164). The sets of such
words are those of 30_encoding.md R79, which in families 0x0, 0x5 and 0x9 rest on the spec's decision D2; 0x0000 is one
of them. -/
def Obligations.UnmatchedWordOnlyAdvancesPc : Prop :=
  UnmatchedWord 0x0000#16 ∧
  (∀ w : Word, fieldCode w = 0x8#4 → fieldN w ∈ [0x8#4, 0x9#4, 0xA#4, 0xB#4, 0xC#4, 0xD#4, 0xF#4] →
    UnmatchedWord w) ∧
  ∀ (s : State) (w : Word), s.run = .running → s.pc.toNat ≤ 0xFFE → UnmatchedWord w →
    s.mem.get s.pc.toNat ++ s.mem.get (s.pc.toNat + 1) = w →
    step s = .next { s with pc := s.pc + 2#16 }

/-- The no-op row `0nnn` of the opcode table executes with no effect at all (the spec's decision D24). -/
def Obligations.SysRowIsANoOp : Prop :=
  ∀ (nnn : Addr12) (s : State),
    (nnn ≠ 0x0E0#12 → nnn ≠ 0x0EE#12 → decodeWord (formNNN 0x0#4 nnn) = .ok (.sys nnn)) ∧
    exec (.sys nnn) s = .next s

/-- A word placed where the next fetch reads it is the word the next step runs; only those two bytes change. The placement
is the model's rendering of the host's load (log entry 6). -/
def Obligations.PlacedWordIsRunNext : Prop :=
  ∀ (s : State) (w : Nat) (i : Instr), s.mem.wf → s.run = .running → s.pc.toNat ≤ 0xFFE → w < 65536 →
    decodeTableWord 16 w = some i →
    step (s.withFetchWord 16 w) = exec i (s.withFetchWord 16 w).advancePc ∧
    UnchangedBut (bytesFrom s.pc.toNat 2) s (s.withFetchWord 16 w)

/-! ### Faults (60_exceptions.md) -/

/-- In the Faulted state the engine takes no step (R201, R111; that the step's outcome is the host interface's fault, with
the record, is the model's rendering, log entry 7). -/
def Obligations.FaultedEngineTakesNoStep : Prop :=
  ∀ (s : State) (r : FaultRecord), s.run = .faulted r → step s = .fault (.engineFaulted r)

/-- A fault is precise: a cycle that ends in the Faulted state leaves everything as it was before the cycle but `run`,
and its record holds the pc of that cycle (R201, R204; the spec's decision D4). -/
def Obligations.FaultIsPrecise : Prop :=
  ∀ s t : State, s.run = .running → step s = .next t → t.run ≠ .running →
    ∃ r : FaultRecord, r.addr = s.pc ∧ t = { s with run := .faulted r }

/-- The fault table R202 is complete: a Running engine always completes its cycle, it faults exactly where the table says
so, with that cause and info, and no other condition of any instruction raises a fault (the spec's decisions D3, D4, D6,
D30). -/
def Obligations.FaultsAreExactlyThoseOfTheTable : Prop :=
  ∀ s : State, s.run = .running →
    (∀ cause info, s.cycleFault = some (cause, info) →
      step s = .next { s with run := .faulted ⟨cause, s.pc, info⟩ }) ∧
    (s.cycleFault = none → ∃ t, step s = .next t ∧ t.run = .running)

/-! ### Reset and the host's actions (70_reset_and_hazards.md, 60_exceptions.md) -/

/-- The state after reset: the pc and the font's place are the source's, every other value the spec's decision D16 (log
entry 8), and the font's 80 bytes are the default of the parameter FONT, written out from 10_state.md R31 (D17, log entry
1). -/
def Obligations.ResetStateIsTheSpecs : Prop :=
  State.reset.pc = 0x200#16 ∧ State.reset.run = .running ∧ State.reset.i = 0#16 ∧ State.reset.sp = 0 ∧
  State.reset.dt = 0#8 ∧ State.reset.st = 0#8 ∧ State.reset.dirty = false ∧
  (∀ r : RegIx, State.reset.readV r = 0#8) ∧ (∀ j : Fin 16, State.reset.stack[j.val] = 0#16) ∧
  (∀ k : Fin 16, State.reset.keys[k.val] = false) ∧ (∀ x y, State.reset.disp.pixel x y = false) ∧
  (∀ a, (a < 0x050 ∨ 0x0A0 ≤ a) → State.reset.mem.get a = 0#8) ∧
  State.reset.mem.getBlock 0x050 80 = (
      [0xF0#8, 0x90#8, 0x90#8, 0x90#8, 0xF0#8, 0x20#8, 0x60#8, 0x20#8, 0x20#8, 0x70#8]
        ++ [0xF0#8, 0x10#8, 0xF0#8, 0x80#8, 0xF0#8, 0xF0#8, 0x10#8, 0xF0#8, 0x10#8, 0xF0#8]
        ++ [0x90#8, 0x90#8, 0xF0#8, 0x10#8, 0x10#8, 0xF0#8, 0x80#8, 0xF0#8, 0x10#8, 0xF0#8]
        ++ [0xF0#8, 0x80#8, 0xF0#8, 0x90#8, 0xF0#8, 0xF0#8, 0x10#8, 0x20#8, 0x40#8, 0x40#8]
        ++ [0xF0#8, 0x90#8, 0xF0#8, 0x90#8, 0xF0#8, 0xF0#8, 0x90#8, 0xF0#8, 0x10#8, 0xF0#8]
        ++ [0xF0#8, 0x90#8, 0xF0#8, 0x90#8, 0x90#8, 0xE0#8, 0x90#8, 0xE0#8, 0x90#8, 0xE0#8]
        ++ [0xF0#8, 0x80#8, 0x80#8, 0x80#8, 0xF0#8, 0xE0#8, 0x90#8, 0x90#8, 0x90#8, 0xE0#8]
        ++ [0xF0#8, 0x80#8, 0xF0#8, 0x80#8, 0xF0#8, 0xF0#8, 0x80#8, 0xF0#8, 0x80#8, 0x80#8])

/-- The host may reset in every state, the Faulted one included, and every reset has the same effect (R230; the spec's
decision D16): the reset state, but that its font is the one of the configuration, whatever table that is (00_scope.md R9,
70_reset_and_hazards.md R231), and that the model's own count of draws goes on (log entry 4). -/
def Obligations.ResetIsTheSameFromEveryState : Prop :=
  ∀ s : State,
    hostAct .reset s = .next { State.reset with draws := s.draws } ∧
    ∀ p : Config.Parameters, ∃ t, hostActUnder p .reset s = .next t ∧ t.mem.wf ∧
      (∀ k (h : k < 80), t.mem.get (0x050 + k) = p.font[k]) ∧ t.draws = s.draws ∧
      UnchangedBut (.draws :: bytesFrom 0x050 80) State.reset t

/-- The loader puts byte k of its image at 0x200 + k and changes nothing else (R221, R234); after reset the bytes beyond the
image are 0 (R234, which rests on the spec's decision D16, log entry 8). That a load is one action and may come in any
state, the Faulted one included, and that an image of more than 3584 bytes is refused by the name programTooLong, is the
model's choice (log entries 17 and 20). -/
def Obligations.LoaderPlacesItsImage : Prop :=
  (∀ (s : State) (image : List Byte), s.mem.wf → image.length ≤ 3584 →
    ∃ t, hostAct (.load image) s = .next t ∧
      (∀ k b, image[k]? = some b → t.mem.get (0x200 + k) = b) ∧
      UnchangedBut (bytesFrom 0x200 image.length) s t) ∧
  (∀ (t : State) (image : List Byte), hostAct (.load image) State.reset = .next t →
    ∀ a, 0x200 + image.length ≤ a → t.mem.get a = 0#8) ∧
  ∀ (s : State) (image : List Byte), 3584 < image.length →
    hostAct (.load image) s = .refused (.programTooLong image.length)

/-- The host's other actions between cycles: the keys become what it sets, a byte it writes reads back at any address
0x000 to 0xFFF, `dirty` is cleared, and nothing else changes (R222, R223, R224). That they may also come in the Faulted
state is the model's choice (log entry 20). -/
def Obligations.HostActionsWriteOnlyTheirOwnPart : Prop :=
  (∀ (s : State) (keys : Vector Bool 16), ∃ t, hostAct (.setKeys keys) s = .next t ∧ t.keys = keys ∧
    UnchangedBut ((List.finRange 16).map .key) s t) ∧
  (∀ (s : State) (a : Addr12) (b : Byte), s.mem.wf → ∃ t, hostAct (.memWrite a b) s = .next t ∧
    t.mem.get a.toNat = b ∧ UnchangedBut [.byte a.toNat] s t) ∧
  (∀ s : State, ∃ t, hostAct .dirtyClear s = .next t ∧ t.dirty = false ∧ UnchangedBut [.dirty] s t)

/-- TimerTick takes one from DT and from ST where they are not 0, and under TIMER_TICK = none it does not occur (R210; that
the decrement stops at 0 is the spec's general knowledge G5; the setting is the spec's decision D10, log entry 5; that a
tick may come in the Faulted state is the model's choice, log entry 20). -/
def Obligations.TimerTickStopsAtZero : Prop :=
  ∀ (p : Config.Parameters) (s : State),
    (p.timerTick = .external → ∃ t, hostActUnder p .timerTick s = .next t ∧
      t.dt.toNat = s.dt.toNat - 1 ∧ t.st.toNat = s.st.toNat - 1 ∧ UnchangedBut [.dt, .st] s t) ∧
    (p.timerTick = .none → hostActUnder p .timerTick s = .refused .timerTickNotConfigured)

/-! ### Control transfer, skips and the stack (42_flow.md) -/

/-- `1nnn`: pc = nnn, nothing else (R131). The target is not checked: a Running engine that has jumped to 0xFFF faults at
the next fetch with only `run` changed (R139; the spec's decisions D30 and D4, log entries 13 and 7). -/
def Obligations.JumpSetsThePc : Prop :=
  ∀ (nnn : Addr12) (s : State),
    decodeWord (formNNN 0x1#4 nnn) = .ok (.jp nnn) ∧
    ∃ t, exec (.jp nnn) s = .next t ∧ t.pc.toNat = nnn.toNat ∧ UnchangedBut [.pc] s t ∧
      (nnn = 0xFFF#12 → s.run = .running →
        ∃ record, record.cause = .fetchOutOfRange ∧ step t = .next { t with run := .faulted record })

/-- `2nnn` with SP < 16: the pc (the return address) goes to Stack[SP], SP rises by 1, pc = nnn, nothing else (R132). -/
def Obligations.CallPushesTheReturnAddress : Prop :=
  ∀ (nnn : Addr12) (s : State) (j : Fin 16), s.sp.val = j.val →
    decodeWord (formNNN 0x2#4 nnn) = .ok (.call nnn) ∧
    ∃ t, exec (.call nnn) s = .next t ∧ t.stack[j.val] = s.pc ∧ t.sp.val = j.val + 1 ∧
      t.pc.toNat = nnn.toNat ∧ UnchangedBut [.stack j, .sp, .pc] s t

/-- `00EE` with SP > 0: SP falls by 1 and pc = Stack[SP]; the entry keeps its value, nothing else changes (R130, 10_state.md
R27). -/
def Obligations.ReturnPopsTheReturnAddress : Prop :=
  ∀ (s : State) (j : Fin 16), s.sp.val = j.val + 1 →
    decodeWord 0x00EE#16 = .ok .ret ∧
    ∃ t, exec .ret s = .next t ∧ t.sp.val = j.val ∧ t.pc = s.stack[j.val] ∧ UnchangedBut [.sp, .pc] s t

/-- Both ends of the stack fault and write nothing: a call at SP = 16, a return at SP = 0; pc is left at the instruction
(the spec's decisions D4 and D6). -/
def Obligations.StackFaultsAtBothEnds : Prop :=
  (∀ (nnn : Addr12) (s : State), s.sp = 16 →
    exec (.call nnn) s = .next { s with pc := s.pc - 2#16, run := .faulted ⟨.stackOverflow, s.pc - 2#16, 16⟩ }) ∧
  ∀ s : State, s.sp = 0 →
    exec .ret s = .next { s with pc := s.pc - 2#16, run := .faulted ⟨.stackUnderflow, s.pc - 2#16, 0⟩ }

/-- The subroutine round trip (R141): a call, then whatever leaves SP and the one entry that the call pushed as the call left
them, then a return: pc is the instruction after the call and SP its value before the call. The entries below are free, and
so are the stale ones above, which matched calls in between leave. -/
def Obligations.CallThenReturnRestoresPcAndSp : Prop :=
  ∀ (nnn : Addr12) (s t u : State), s.sp ≠ 16 → exec (.call nnn) s = .next t →
    u.sp = t.sp → (∀ j : Fin 16, j.val = s.sp.val → u.stack[j.val] = t.stack[j.val]) →
    ∃ w, exec .ret u = .next w ∧ w.pc = s.pc ∧ w.sp = s.sp

/-- `3xnn` and `4xnn` skip one word where Vx equals nn, and where it differs; nothing but pc changes (R133, R134). -/
def Obligations.ImmediateSkips : Prop :=
  ∀ (x : RegIx) (nn : Byte) (s : State),
    (decodeWord (formXNN 0x3#4 x nn) = .ok (.seImm x nn) ∧
      ∃ t, exec (.seImm x nn) s = .next t ∧
        t.pc = (if s.readV x = nn then s.pc + 2#16 else s.pc) ∧ UnchangedBut [.pc] s t) ∧
    (decodeWord (formXNN 0x4#4 x nn) = .ok (.sneImm x nn) ∧
      ∃ t, exec (.sneImm x nn) s = .next t ∧
        t.pc = (if s.readV x = nn then s.pc else s.pc + 2#16) ∧ UnchangedBut [.pc] s t)

/-- `5xy0` and `9xy0` skip one word where Vx equals Vy, and where it differs; `5xyN` and `9xyN` with N ≠ 0 are unmatched (R135,
R136; that the fixed nibble must match is the spec's decision D2). -/
def Obligations.RegisterSkips : Prop :=
  ∀ (x y : RegIx) (s : State),
    (decodeWord (formXYN 0x5#4 x y 0x0#4) = .ok (.seReg x y) ∧
      ∃ t, exec (.seReg x y) s = .next t ∧
        t.pc = (if s.readV x = s.readV y then s.pc + 2#16 else s.pc) ∧ UnchangedBut [.pc] s t) ∧
    (decodeWord (formXYN 0x9#4 x y 0x0#4) = .ok (.sneReg x y) ∧
      ∃ t, exec (.sneReg x y) s = .next t ∧
        t.pc = (if s.readV x = s.readV y then s.pc else s.pc + 2#16) ∧ UnchangedBut [.pc] s t) ∧
    ∀ n : Nibble, n ≠ 0x0#4 →
      decodeWord (formXYN 0x5#4 x y n) = .error (.unmatched (formXYN 0x5#4 x y n)) ∧
      decodeWord (formXYN 0x9#4 x y n) = .error (.unmatched (formXYN 0x9#4 x y n))

/-- `Bnnn`: pc = nnn + V0, always V0, with no wrap; nothing else changes (R137). -/
def Obligations.JumpWithOffsetAddsV0 : Prop :=
  ∀ (nnn : Addr12) (s : State),
    decodeWord (formNNN 0xB#4 nnn) = .ok (.jpV0 nnn) ∧
    ∃ t, exec (.jpV0 nnn) s = .next t ∧ t.pc.toNat = nnn.toNat + (s.readV 0#4).toNat ∧ UnchangedBut [.pc] s t

/-! ### Register arithmetic and logic (43_alu.md) -/

/-- `6xnn` and `8xy0`: Vx = nn, Vx = Vy, nothing else (R151, R153). -/
def Obligations.LoadsWriteOnlyVx : Prop :=
  ∀ (x y : RegIx) (nn : Byte) (s : State),
    (decodeWord (formXNN 0x6#4 x nn) = .ok (.ldImm x nn) ∧
      ∃ t, exec (.ldImm x nn) s = .next t ∧ t.readV x = nn ∧ UnchangedBut [.v x] s t) ∧
    (decodeWord (formXYN 0x8#4 x y 0x0#4) = .ok (.ldReg x y) ∧
      ∃ t, exec (.ldReg x y) s = .next t ∧ t.readV x = s.readV y ∧ UnchangedBut [.v x] s t)

/-- `7xnn`: Vx = (Vx + nn) mod 256; the carry is discarded and VF is not written unless it is Vx (R152). -/
def Obligations.AddImmediateWrapsWithoutCarry : Prop :=
  ∀ (x : RegIx) (nn : Byte) (s : State),
    decodeWord (formXNN 0x7#4 x nn) = .ok (.addImm x nn) ∧
    ∃ t, exec (.addImm x nn) s = .next t ∧
      (t.readV x).toNat = ((s.readV x).toNat + nn.toNat) % 256 ∧ UnchangedBut [.v x] s t

/-- `8xy1`, `8xy2`, `8xy3`: bit by bit OR, AND, exclusive OR into Vx; VF is not reset, which the spec marks as its own
inference from the source's table (R154, R155, R156). -/
def Obligations.BitwiseOpsWriteOnlyVx : Prop :=
  ∀ (x y : RegIx) (s : State),
    (decodeWord (formXYN 0x8#4 x y 0x1#4) = .ok (.orReg x y) ∧
      ∃ t, exec (.orReg x y) s = .next t ∧ UnchangedBut [.v x] s t ∧
        ∀ b, (t.readV x).getLsbD b = ((s.readV x).getLsbD b || (s.readV y).getLsbD b)) ∧
    (decodeWord (formXYN 0x8#4 x y 0x2#4) = .ok (.andReg x y) ∧
      ∃ t, exec (.andReg x y) s = .next t ∧ UnchangedBut [.v x] s t ∧
        ∀ b, (t.readV x).getLsbD b = ((s.readV x).getLsbD b && (s.readV y).getLsbD b)) ∧
    (decodeWord (formXYN 0x8#4 x y 0x3#4) = .ok (.xorReg x y) ∧
      ∃ t, exec (.xorReg x y) s = .next t ∧ UnchangedBut [.v x] s t ∧
        ∀ b, (t.readV x).getLsbD b = ((s.readV x).getLsbD b ^^ (s.readV y).getLsbD b))

/-- `8xy4`: Vx is the sum mod 256 and VF the carry; where Vx is VF, the carry is what stays (R157; the order of the two
writes is the spec's decision D12). -/
def Obligations.AddRegistersSetsCarry : Prop :=
  ∀ (x y : RegIx) (s : State),
    decodeWord (formXYN 0x8#4 x y 0x4#4) = .ok (.addReg x y) ∧
    ∃ t, exec (.addReg x y) s = .next t ∧
      (x ≠ vF → (t.readV x).toNat = ((s.readV x).toNat + (s.readV y).toNat) % 256) ∧
      (t.readV vF).toNat = (if 255 < (s.readV x).toNat + (s.readV y).toNat then 1 else 0) ∧
      UnchangedBut [.v x, .v vF] s t

/-- `8xy5`: VF = 0 where Vy > Vx, else 1, written first; then Vx = Vx − Vy of the values read after it. The four cases of x
and y being VF are those of the spec's decision D12 (R158). -/
def Obligations.SubWritesFlagThenDifference : Prop :=
  ∀ (x y : RegIx) (s : State),
    decodeWord (formXYN 0x8#4 x y 0x5#4) = .ok (.sub x y) ∧
    ∃ (t : State) (flag : Nat), exec (.sub x y) s = .next t ∧
      flag = (if (s.readV x).toNat < (s.readV y).toNat then 0 else 1) ∧
      (x ≠ vF → y ≠ vF → (t.readV x).toNat = ((s.readV x).toNat + 256 - (s.readV y).toNat) % 256) ∧
      (x ≠ vF → (t.readV vF).toNat = flag) ∧
      (x = vF → y ≠ vF → (t.readV vF).toNat = (flag + 256 - (s.readV y).toNat) % 256) ∧
      (x ≠ vF → y = vF → (t.readV x).toNat = ((s.readV x).toNat + 256 - flag) % 256) ∧
      (x = vF → y = vF → (t.readV vF).toNat = 0) ∧
      UnchangedBut [.v x, .v vF] s t

/-- `8xy7`: VF = 0 where Vx > Vy, else 1 (the spec's decision D13), written first; then Vx = Vy − Vx of the values read
after it (the spec's decision D12; R160). -/
def Obligations.SubnWritesFlagThenDifference : Prop :=
  ∀ (x y : RegIx) (s : State),
    decodeWord (formXYN 0x8#4 x y 0x7#4) = .ok (.subn x y) ∧
    ∃ (t : State) (flag : Nat), exec (.subn x y) s = .next t ∧
      flag = (if (s.readV y).toNat < (s.readV x).toNat then 0 else 1) ∧
      (x ≠ vF → y ≠ vF → (t.readV x).toNat = ((s.readV y).toNat + 256 - (s.readV x).toNat) % 256) ∧
      (x ≠ vF → (t.readV vF).toNat = flag) ∧
      (x = vF → y ≠ vF → (t.readV vF).toNat = ((s.readV y).toNat + 256 - flag) % 256) ∧
      (x ≠ vF → y = vF → (t.readV x).toNat = (flag + 256 - (s.readV x).toNat) % 256) ∧
      (x = vF → y = vF → (t.readV vF).toNat = 0) ∧
      UnchangedBut [.v x, .v vF] s t

/-- `8xy6`: VF is bit 0 of the old Vx, and Vx is halved; where Vx is VF the result is 0 (the spec's decision D12). Any y
gives the same result (R159). -/
def Obligations.ShiftRightHalvesVx : Prop :=
  ∀ (x y : RegIx) (s : State),
    decodeWord (formXYN 0x8#4 x y 0x6#4) = .ok (.shr x y) ∧
    ∃ t, exec (.shr x y) s = .next t ∧ (∀ z, exec (.shr x z) s = .next t) ∧
      (x ≠ vF → (t.readV x).toNat = (s.readV x).toNat / 2 ∧ (t.readV vF).toNat = (s.readV x).toNat % 2) ∧
      (x = vF → (t.readV vF).toNat = 0) ∧
      UnchangedBut [.v x, .v vF] s t

/-- `8xyE`: VF is bit 0 of the old Vx, not bit 7, and Vx is doubled mod 256; where Vx is VF the result is twice that bit
(the spec's decision D12). Any y gives the same result (R161). -/
def Obligations.ShiftLeftTakesBitZero : Prop :=
  ∀ (x y : RegIx) (s : State),
    decodeWord (formXYN 0x8#4 x y 0xE#4) = .ok (.shl x y) ∧
    ∃ t, exec (.shl x y) s = .next t ∧ (∀ z, exec (.shl x z) s = .next t) ∧
      (x ≠ vF → (t.readV x).toNat = (2 * (s.readV x).toNat) % 256 ∧
        (t.readV vF).toNat = (s.readV x).toNat % 2) ∧
      (x = vF → (t.readV vF).toNat = 2 * ((s.readV x).toNat % 2)) ∧
      UnchangedBut [.v x, .v vF] s t

/-- `Cxnn`: Vx = nn AND the environment's byte, a free value (log entry 2); the next draw is another; nothing else changes
(R162, R163). -/
def Obligations.RandomByteIsMasked : Prop :=
  ∀ (x : RegIx) (nn : Byte) (s : State),
    decodeWord (formXNN 0xC#4 x nn) = .ok (.rnd x nn) ∧
    ∃ t, exec (.rnd x nn) s = .next t ∧ t.draws = s.draws + 1 ∧
      (∀ b, (t.readV x).getLsbD b = (nn.getLsbD b && (Config.randByte s.draws).getLsbD b)) ∧
      (nn = 0x00#8 → t.readV x = 0x00#8) ∧ (nn = 0xFF#8 → t.readV x = Config.randByte s.draws) ∧
      UnchangedBut [.v x, .draws] s t

/-! ### The index register and memory transfers (44_index_memory.md) -/

/-- `Annn`: I = nnn, nothing else (R170). -/
def Obligations.LoadIndexSetsI : Prop :=
  ∀ (nnn : Addr12) (s : State),
    decodeWord (formNNN 0xA#4 nnn) = .ok (.ldI nnn) ∧
    ∃ t, exec (.ldI nnn) s = .next t ∧ t.i.toNat = nnn.toNat ∧ UnchangedBut [.i] s t

/-- `Fx1E` and `Fx29`: I = (I + Vx) mod 65536, not masked to 12 bits, with VF unchanged (the spec's decision D9); I = 0x050 +
5 × Vx on all 8 bits of Vx (the spec's decision D8) (R171, R172). -/
def Obligations.IndexArithmeticIsUnmasked : Prop :=
  ∀ (x : RegIx) (s : State),
    (decodeWord (formXNN 0xF#4 x 0x1E#8) = .ok (.addI x) ∧
      ∃ t, exec (.addI x) s = .next t ∧
        t.i.toNat = (s.i.toNat + (s.readV x).toNat) % 65536 ∧ UnchangedBut [.i] s t) ∧
    (decodeWord (formXNN 0xF#4 x 0x29#8) = .ok (.ldF x) ∧
      ∃ t, exec (.ldF x) s = .next t ∧ t.i.toNat = 0x050 + 5 * (s.readV x).toNat ∧ UnchangedBut [.i] s t)

/-- `Fx33` with I + 2 below 4096: the hundreds, tens and ones of Vx at I, I + 1, I + 2; I and everything else unchanged
(the spec's decision D25) (R173). -/
def Obligations.BcdStoresTheDecimalDigits : Prop :=
  ∀ (x : RegIx) (s : State), s.mem.wf → s.i.toNat + 2 < 4096 →
    decodeWord (formXNN 0xF#4 x 0x33#8) = .ok (.ldB x) ∧
    ∃ (t : State) (h d o : Nat), exec (.ldB x) s = .next t ∧
      h < 10 ∧ d < 10 ∧ o < 10 ∧ 100 * h + 10 * d + o = (s.readV x).toNat ∧
      (t.mem.get s.i.toNat).toNat = h ∧ (t.mem.get (s.i.toNat + 1)).toNat = d ∧
      (t.mem.get (s.i.toNat + 2)).toNat = o ∧ UnchangedBut (bytesFrom s.i.toNat 3) s t

/-- `Fx55` with I + x below 4096: V0 to Vx at I to I + x; I and everything else unchanged (the spec's decision D25)
(R174). -/
def Obligations.StoreRegistersWritesTheBlock : Prop :=
  ∀ (x : RegIx) (s : State), s.mem.wf → s.i.toNat + x.toNat < 4096 →
    decodeWord (formXNN 0xF#4 x 0x55#8) = .ok (.storeRegs x) ∧
    ∃ t, exec (.storeRegs x) s = .next t ∧
      (∀ k : RegIx, k.toNat ≤ x.toNat → t.mem.get (s.i.toNat + k.toNat) = s.readV k) ∧
      UnchangedBut (bytesFrom s.i.toNat (x.toNat + 1)) s t

/-- `Fx65` with I + x below 4096: V0 to Vx from I to I + x; the registers above, I, memory and everything else unchanged
(the spec's decision D25) (R175). -/
def Obligations.LoadRegistersReadsTheBlock : Prop :=
  ∀ (x : RegIx) (s : State), s.i.toNat + x.toNat < 4096 →
    decodeWord (formXNN 0xF#4 x 0x65#8) = .ok (.loadRegs x) ∧
    ∃ t, exec (.loadRegs x) s = .next t ∧
      (∀ k : RegIx, k.toNat ≤ x.toNat → t.readV k = s.mem.get (s.i.toNat + k.toNat)) ∧
      UnchangedBut (regsUpTo x) s t

/-- A block beyond 4095 faults before anything is written, with the lowest bad address, the greater of I and 4096; pc is
left at the instruction. No address wraps at 16 bits (the spec's decisions D3 and D4; R173, R174, R175). -/
def Obligations.BlockTransfersFaultBeyondMemory : Prop :=
  ∀ (x : RegIx) (s : State),
    (4096 ≤ s.i.toNat + 2 → exec (.ldB x) s = .next { s with
      pc := s.pc - 2#16, run := .faulted ⟨.memWriteOutOfRange, s.pc - 2#16, max s.i.toNat 4096⟩ }) ∧
    (4096 ≤ s.i.toNat + x.toNat → exec (.storeRegs x) s = .next { s with
      pc := s.pc - 2#16, run := .faulted ⟨.memWriteOutOfRange, s.pc - 2#16, max s.i.toNat 4096⟩ }) ∧
    (4096 ≤ s.i.toNat + x.toNat → exec (.loadRegs x) s = .next { s with
      pc := s.pc - 2#16, run := .faulted ⟨.memReadOutOfRange, s.pc - 2#16, max s.i.toNat 4096⟩ })

/-- What `Fx55` stores, `Fx65` of the same x and I loads again, whatever the registers hold by then (20_memory.md R61). -/
def Obligations.StoredRegistersLoadBack : Prop :=
  ∀ (x : RegIx) (s t u : State), s.mem.wf → s.i.toNat + x.toNat < 4096 → exec (.storeRegs x) s = .next t →
    u.mem = t.mem → u.i = s.i →
    ∃ w, exec (.loadRegs x) u = .next w ∧ ∀ k : RegIx, k.toNat ≤ x.toNat → w.readV k = s.readV k

/-- Self-modifying code takes effect at once: two bytes that `Fx55` stores are the word fetched there next (20_memory.md
R64). -/
def Obligations.StoredBytesAreFetched : Prop :=
  ∀ (x k : RegIx) (s t : State), s.mem.wf → s.i.toNat + x.toNat < 4096 → k.toNat < x.toNat →
    exec (.storeRegs x) s = .next t →
    (t.setPc (s.i + BitVec.ofNat 16 k.toNat)).fetchWord = some (s.readV k ++ s.readV (k + 1#4))

/-! ### Display (41_display.md) -/

/-- `00E0`: every pixel off and dirty set, whatever the display was; nothing else changes (R120). -/
def Obligations.ClearTurnsEveryPixelOff : Prop :=
  decodeWord 0x00E0#16 = .ok .cls ∧
  ∀ s : State, ∃ t, exec .cls s = .next t ∧ (∀ x y, t.disp.pixel x y = false) ∧ t.dirty = true ∧
    UnchangedBut (.dirty :: allPixels) s t

/-- `Dxyn` with its n bytes in memory (or n = 0): exactly the pixels under a set sprite bit are toggled, clipped at the
right and bottom edges and never wrapped; VF is 1 where one of them was on, else 0; dirty is set; nothing else changes.
Vx and Vy are read before VF is written, also where x or y is 0xF, and n = 0 draws nothing (the spec's decisions D14 and
D28; R122 to R127, R129). -/
def Obligations.DrawTogglesTheSpritePixels : Prop :=
  ∀ (x y : RegIx) (n : Nibble) (s : State), (n = 0#4 ∨ s.i.toNat + n.toNat ≤ 4096) →
    decodeWord (formXYN 0xD#4 x y n) = .ok (.drw x y n) ∧
    ∃ t, exec (.drw x y n) s = .next t ∧
      (∀ px py, SpriteCovers s x y n px py → t.disp.pixel px py = !s.disp.pixel px py) ∧
      (∀ px py, ¬ SpriteCovers s x y n px py → t.disp.pixel px py = s.disp.pixel px py) ∧
      ((∃ px py, SpriteCovers s x y n px py ∧ s.disp.pixel px py = true) → t.readV vF = 1#8) ∧
      ((¬ ∃ px py, SpriteCovers s x y n px py ∧ s.disp.pixel px py = true) → t.readV vF = 0#8) ∧
      t.dirty = true ∧ UnchangedBut (.v vF :: .dirty :: allPixels) s t

/-- A sprite byte beyond 4095, of a clipped row too, faults before anything is written, with the lowest bad address (R128;
the spec's decisions D4 and D14). -/
def Obligations.DrawFaultsBeyondMemory : Prop :=
  ∀ (x y : RegIx) (n : Nibble) (s : State), n ≠ 0#4 → 4096 < s.i.toNat + n.toNat →
    exec (.drw x y n) s = .next { s with
      pc := s.pc - 2#16, run := .faulted ⟨.memReadOutOfRange, s.pc - 2#16, max s.i.toNat 4096⟩ }

/-- The same sprite drawn again at the same origin, with the sprite's bytes, I, Vx and Vy as they were: the display is the
one before the first draw, and the second VF is 1 exactly when one of the toggled pixels was off before the first (R126,
90_conflicts.md C10). With x or y = 0xF the origin is the VF read before it is written, and n = 0 draws nothing (the
spec's decisions D14 and D28, log entry 16). -/
def Obligations.SecondDrawRestoresTheDisplay : Prop :=
  ∀ (x y : RegIx) (n : Nibble) (s t u : State), (n = 0#4 ∨ s.i.toNat + n.toNat ≤ 4096) →
    exec (.drw x y n) s = .next t →
    u.disp = t.disp → u.i = s.i → u.readV x = s.readV x → u.readV y = s.readV y →
    (∀ r, r < n.toNat → u.mem.get (s.i.toNat + r) = s.mem.get (s.i.toNat + r)) →
    ∃ w, exec (.drw x y n) u = .next w ∧ w.disp = s.disp ∧
      ((∃ px py, SpriteCovers s x y n px py ∧ s.disp.pixel px py = false) → w.readV vF = 1#8) ∧
      ((¬ ∃ px py, SpriteCovers s x y n px py ∧ s.disp.pixel px py = false) → w.readV vF = 0#8)

/-! ### Keys and timers (45_keys_timers.md) -/

/-- `Ex9E` and `ExA1` for Vx ≤ 15: skip one word where that key of the cycle's snapshot is pressed, and where it is not;
nothing but pc changes (R190, R191). -/
def Obligations.KeySkipsFollowTheKey : Prop :=
  ∀ (x : RegIx) (k : Fin 16) (s : State), (s.readV x).toNat = k.val →
    (decodeWord (formXNN 0xE#4 x 0x9E#8) = .ok (.skp x) ∧
      ∃ t, exec (.skp x) s = .next t ∧
        t.pc = (if s.keys[k.val] = true then s.pc + 2#16 else s.pc) ∧ UnchangedBut [.pc] s t) ∧
    (decodeWord (formXNN 0xE#4 x 0xA1#8) = .ok (.sknp x) ∧
      ∃ t, exec (.sknp x) s = .next t ∧
        t.pc = (if s.keys[k.val] = true then s.pc else s.pc + 2#16) ∧ UnchangedBut [.pc] s t)

/-- A key index above 15 faults with the whole of Vx as its info and writes nothing; it is not reduced mod 16 (R196; the
spec's decisions D3 and D4). -/
def Obligations.KeyIndexAboveFifteenFaults : Prop :=
  ∀ (x : RegIx) (s : State), 15 < (s.readV x).toNat →
    exec (.skp x) s = .next { s with
      pc := s.pc - 2#16, run := .faulted ⟨.keyIndexOutOfRange, s.pc - 2#16, (s.readV x).toNat⟩ } ∧
    exec (.sknp x) s = .next { s with
      pc := s.pc - 2#16, run := .faulted ⟨.keyIndexOutOfRange, s.pc - 2#16, (s.readV x).toNat⟩ }

/-- The key wait spins: with no key pressed a whole cycle of `Fx0A`, in every configuration, leaves the state exactly as it
was (R193, 40_cycle.md R110). -/
def Obligations.KeyWaitSpinsWithoutAKey : Prop :=
  ∀ (x : RegIx) (s : State), s.run = .running → s.pc.toNat ≤ 0xFFE →
    s.mem.get s.pc.toNat ++ s.mem.get (s.pc.toNat + 1) = formXNN 0xF#4 x 0x0A#8 →
    (∀ k : Fin 16, s.keys[k.val] = false) → step s = .next s ∧ ∀ p, stepUnder p s = .next s

/-- `Fx0A` with a key pressed: Vx is the index of a pressed key and execution goes on; nothing else changes but the model's
own count of draws. Which of several keys it is, the free choice of KEY_SELECT = any, is a free value; under KEY_SELECT =
lowest it is the least of them (R193, R198; the spec's decision D11, log entry 3). -/
def Obligations.KeyWaitTakesAPressedKey : Prop :=
  ∀ (x : RegIx) (s : State), (∃ k : Fin 16, s.keys[k.val] = true) →
    decodeWord (formXNN 0xF#4 x 0x0A#8) = .ok (.ldVxK x) ∧
    (∃ (t : State) (k : Fin 16), exec (.ldVxK x) s = .next t ∧ s.keys[k.val] = true ∧
      (t.readV x).toNat = k.val ∧ UnchangedBut [.v x, .draws] s t) ∧
    ∀ p : Config.Parameters, ∃ (t : State) (k : Fin 16), execUnder p (.ldVxK x) s = .next t ∧
      s.keys[k.val] = true ∧ (p.keySelect = .lowest → ∀ j : Fin 16, s.keys[j.val] = true → k ≤ j) ∧
      (t.readV x).toNat = k.val ∧ UnchangedBut [.v x, .draws] s t

/-- `Fx07`, `Fx15`, `Fx18`: Vx = DT, DT = Vx, ST = Vx, nothing else (R192, R194, R195). -/
def Obligations.TimerTransfersCopyOneByte : Prop :=
  ∀ (x : RegIx) (s : State),
    (decodeWord (formXNN 0xF#4 x 0x07#8) = .ok (.ldVxDT x) ∧
      ∃ t, exec (.ldVxDT x) s = .next t ∧ t.readV x = s.dt ∧ UnchangedBut [.v x] s t) ∧
    (decodeWord (formXNN 0xF#4 x 0x15#8) = .ok (.ldDTVx x) ∧
      ∃ t, exec (.ldDTVx x) s = .next t ∧ t.dt = s.readV x ∧ UnchangedBut [.dt] s t) ∧
    (decodeWord (formXNN 0xF#4 x 0x18#8) = .ok (.ldSTVx x) ∧
      ∃ t, exec (.ldSTVx x) s = .next t ∧ t.st = s.readV x ∧ UnchangedBut [.st] s t)

/-! ### Whole-machine rules -/

/-- No instruction writes more than the register-use table gives it (10_state.md R23, R26, R27, R32, R33, R36): the display
and dirty are changed by `00E0` and `Dxyn` alone, memory by `Fx33` and `Fx55`, the stack by `2nnn`, DT by `Fx15`, ST by
`Fx18`, the keys by none. The core never clears dirty. -/
def Obligations.InstructionsWriteOnlyWhatTheTableGives : Prop :=
  ∀ (i : Instr) (s t : State), exec i s = .next t → t.run = .running →
    (∀ p, mayWrite i p = false → s.agreesAt t p) ∧ (s.dirty = true → t.dirty = true)

/-- No instruction reads dirty, and none reads ST: two states that differ in dirty alone take steps that differ in dirty
alone, and two that differ in ST alone take steps that differ in ST alone. So it makes no difference to any instruction's
result whether the host clears dirty (60_exceptions.md R222, 10_state.md R29, R33). -/
def Obligations.NoInstructionReadsDirtyOrSoundTimer : Prop :=
  ∀ s : State,
    (∀ b : Bool,
      (∀ t, step s = .next t → ∃ b', step { s with dirty := b } = .next { t with dirty := b' }) ∧
      (∀ r, step s = .fault r → step { s with dirty := b } = .fault r)) ∧
    ∀ v : Byte,
      (∀ t, step s = .next t → ∃ v', step { s with st := v } = .next { t with st := v' }) ∧
      (∀ r, step s = .fault r → step { s with st := v } = .fault r)

/-- The core only reads the keys and never counts a timer down by itself: a step leaves the keys as they are, and DT and ST
too unless the instruction is `Fx15` or `Fx18` (10_state.md R34, 45_keys_timers.md R199). -/
def Obligations.StepNeverTicksTimersOrWritesKeys : Prop :=
  ∀ s t : State, step s = .next t →
    t.keys = s.keys ∧
    ((∀ x, s.wordAtPc ≠ formXNN 0xF#4 x 0x15#8) → t.dt = s.dt) ∧
    ((∀ x, s.wordAtPc ≠ formXNN 0xF#4 x 0x18#8) → t.st = s.st)

/-! ### The invariant -/

/-- The reset state meets the invariant. -/
def Obligations.ResetMeetsTheInvariant : Prop := Inv State.reset

/-- Every step, in every configuration, keeps the invariant: memory stays canonical, pc stays within 0x10FE so that no pc arithmetic wraps, return
addresses stay within 0x1000, and a fault record fits the state. -/
def Obligations.StepKeepsTheInvariant : Prop :=
  ∀ s t : State, Inv s →
    (step s = .next t → Inv t) ∧ ∀ p : Config.Parameters, stepUnder p s = .next t → Inv t

/-- So does every action of the host, in every configuration. -/
def Obligations.HostActionsKeepTheInvariant : Prop :=
  ∀ (p : Config.Parameters) (a : HostAction) (s t : State), Inv s → hostActUnder p a s = .next t → Inv t

/-- The state holds nothing that its parts do not show: two states with canonical memories that agree on every part are
equal. -/
def Obligations.StatesAgreeingOnEveryPartAreEqual : Prop :=
  ∀ s t : State, s.mem.wf → t.mem.wf → UnchangedBut [] s t → t = s

/-- What the software owes is exactly what a safe run takes: the engine stays Running for n cycles where it is Running and
none of those cycles, each from the state that the ones before it lead to, has a fault of the table
(70_reset_and_hazards.md R236, 60_exceptions.md R202). -/
def Obligations.SafeCyclesMakeASafeRun : Prop :=
  ∀ (n : Nat) (s : State),
    StaysRunning n s ↔ s.run = .running ∧
      ∀ k, k < n → ∃ t, runEvents (List.replicate k .cycle) s = .next t ∧ t.cycleFault = none
end

