-- ==== Sys2Proof/Laws/Decode.lean ====
section
/-! SUPPORT. The fields of a formed word, the word of its fields, and the masks of the opcode map. -/

namespace Sys2Proof

theorem toNat_append_eq {a b : Nat} (u : BitVec a) (v : BitVec b) :
    (u ++ v).toNat = u.toNat * 2 ^ b + v.toNat := by
  rw [BitVec.toNat_append, Nat.shiftLeft_eq, Nat.mul_comm, ← Nat.two_pow_add_eq_or_of_lt v.isLt]

theorem toNat_formXYN (k : Nibble) (x y : RegIx) (n : Nibble) :
    (formXYN k x y n).toNat = k.toNat * 4096 + x.toNat * 256 + y.toNat * 16 + n.toNat := by
  show (k ++ x ++ y ++ n : BitVec (4 + 4 + 4 + 4)).toNat = _
  rw [toNat_append_eq, toNat_append_eq, toNat_append_eq]
  omega

theorem toNat_formXNN (k : Nibble) (x : RegIx) (nn : Byte) :
    (formXNN k x nn).toNat = k.toNat * 4096 + x.toNat * 256 + nn.toNat := by
  show (k ++ x ++ nn : BitVec (4 + 4 + 8)).toNat = _
  rw [toNat_append_eq, toNat_append_eq]
  omega

theorem toNat_formNNN (k : Nibble) (nnn : Addr12) : (formNNN k nnn).toNat = k.toNat * 4096 + nnn.toNat := by
  show (k ++ nnn : BitVec (4 + 12)).toNat = _
  rw [toNat_append_eq]
  omega

/-! ### The fields as numbers -/

theorem toNat_fieldCode (w : Word) : (fieldCode w).toNat = w.toNat / 4096 := by
  have := w.isLt
  simp [fieldCode, Nat.shiftRight_eq_div_pow]
  omega

theorem toNat_fieldX (w : Word) : (fieldX w).toNat = w.toNat / 256 % 16 := by
  simp [fieldX, Nat.shiftRight_eq_div_pow]

theorem toNat_fieldY (w : Word) : (fieldY w).toNat = w.toNat / 16 % 16 := by
  simp [fieldY, Nat.shiftRight_eq_div_pow]

theorem toNat_fieldN (w : Word) : (fieldN w).toNat = w.toNat % 16 := by simp [fieldN]

theorem toNat_fieldNN (w : Word) : (fieldNN w).toNat = w.toNat % 256 := by simp [fieldNN]

theorem toNat_fieldNNN (w : Word) : (fieldNNN w).toNat = w.toNat % 4096 := by simp [fieldNNN]

/-! ### The fields of a formed word -/

section
variable (k : Nibble) (x y : RegIx) (n : Nibble) (nn : Byte) (nnn : Addr12)

@[simp] theorem fieldCode_formXYN : fieldCode (formXYN k x y n) = k := by
  apply BitVec.eq_of_toNat_eq; rw [toNat_fieldCode, toNat_formXYN]; omega

@[simp] theorem fieldX_formXYN : fieldX (formXYN k x y n) = x := by
  apply BitVec.eq_of_toNat_eq; rw [toNat_fieldX, toNat_formXYN]; omega

@[simp] theorem fieldY_formXYN : fieldY (formXYN k x y n) = y := by
  apply BitVec.eq_of_toNat_eq; rw [toNat_fieldY, toNat_formXYN]; omega

@[simp] theorem fieldN_formXYN : fieldN (formXYN k x y n) = n := by
  apply BitVec.eq_of_toNat_eq; rw [toNat_fieldN, toNat_formXYN]; omega

@[simp] theorem fieldCode_formXNN : fieldCode (formXNN k x nn) = k := by
  apply BitVec.eq_of_toNat_eq; rw [toNat_fieldCode, toNat_formXNN]; omega

@[simp] theorem fieldX_formXNN : fieldX (formXNN k x nn) = x := by
  apply BitVec.eq_of_toNat_eq; rw [toNat_fieldX, toNat_formXNN]; omega

@[simp] theorem fieldNN_formXNN : fieldNN (formXNN k x nn) = nn := by
  apply BitVec.eq_of_toNat_eq; rw [toNat_fieldNN, toNat_formXNN]; omega

@[simp] theorem fieldCode_formNNN : fieldCode (formNNN k nnn) = k := by
  apply BitVec.eq_of_toNat_eq; rw [toNat_fieldCode, toNat_formNNN]; omega

@[simp] theorem fieldNNN_formNNN : fieldNNN (formNNN k nnn) = nnn := by
  apply BitVec.eq_of_toNat_eq; rw [toNat_fieldNNN, toNat_formNNN]; omega

end

section
variable (k : Nibble) (x : RegIx) (nn : Byte)

theorem fieldY_formXNN : fieldY (formXNN k x nn) = nn.extractLsb' 4 4 := by
  apply BitVec.eq_of_toNat_eq
  rw [toNat_fieldY, toNat_formXNN]
  simp [Nat.shiftRight_eq_div_pow]
  omega

theorem fieldN_formXNN : fieldN (formXNN k x nn) = nn.extractLsb' 0 4 := by
  apply BitVec.eq_of_toNat_eq
  rw [toNat_fieldN, toNat_formXNN]
  simp [Nat.shiftRight_eq_div_pow]
  omega

end

/-! ### A word from its fields -/

theorem formXYN_fields (w : Word) : formXYN (fieldCode w) (fieldX w) (fieldY w) (fieldN w) = w := by
  apply BitVec.eq_of_toNat_eq
  rw [toNat_formXYN, toNat_fieldCode, toNat_fieldX, toNat_fieldY, toNat_fieldN]
  omega

theorem formXNN_fields (w : Word) : formXNN (fieldCode w) (fieldX w) (fieldNN w) = w := by
  apply BitVec.eq_of_toNat_eq
  rw [toNat_formXNN, toNat_fieldCode, toNat_fieldX, toNat_fieldNN]
  omega

theorem formNNN_fields (w : Word) : formNNN (fieldCode w) (fieldNNN w) = w := by
  apply BitVec.eq_of_toNat_eq
  rw [toNat_formNNN, toNat_fieldCode, toNat_fieldNNN]
  omega

/-- `nn = y ++ n` (30_encoding.md R72). -/
theorem formXNN_append (k : Nibble) (x y : RegIx) (n : Nibble) : formXNN k x (y ++ n) = formXYN k x y n := by
  apply BitVec.eq_of_toNat_eq
  have : (y ++ n : BitVec (4 + 4)).toNat = _ := toNat_append_eq y n
  rw [toNat_formXNN, toNat_formXYN, this]
  omega

/-! ### Bytes of a word -/

theorem toNat_highByte (w : Word) : (highByte w).toNat = w.toNat / 256 := by
  have := w.isLt
  simp [highByte, Nat.shiftRight_eq_div_pow]
  omega

theorem toNat_lowByte (w : Word) : (lowByte w).toNat = w.toNat % 256 := by simp [lowByte]

theorem toNat_wordOfBytes (hi lo : Byte) : (wordOfBytes hi lo).toNat = hi.toNat * 256 + lo.toNat := by
  show (hi ++ lo : BitVec (8 + 8)).toNat = _
  rw [toNat_append_eq]
  omega

/-- The bytes of a word, put together again, are the word (R70). -/
@[simp] theorem wordOfBytes_bytes (w : Word) : wordOfBytes (highByte w) (lowByte w) = w := by
  apply BitVec.eq_of_toNat_eq
  rw [toNat_wordOfBytes, toNat_highByte, toNat_lowByte]
  omega

/-! ### Masks (R77) -/

/-- A mask acts on each nibble of a word. -/
theorem formXYN_and (k x y n a b c d : Nibble) :
    formXYN k x y n &&& formXYN a b c d = formXYN (k &&& a) (x &&& b) (y &&& c) (n &&& d) := by
  show (k ++ x ++ y ++ n : BitVec (4 + 4 + 4 + 4)) &&& (a ++ b ++ c ++ d : BitVec (4 + 4 + 4 + 4))
    = ((k &&& a) ++ (x &&& b) ++ (y &&& c) ++ (n &&& d) : BitVec (4 + 4 + 4 + 4))
  rw [BitVec.and_append, BitVec.and_append, BitVec.and_append]

/-- Two formed words are equal where their nibbles are. -/
theorem formXYN_inj {k x y n a b c d : Nibble} :
    formXYN k x y n = formXYN a b c d ↔ k = a ∧ x = b ∧ y = c ∧ n = d := by
  constructor
  · intro h
    refine ⟨?_, ?_, ?_, ?_⟩
    · simpa using congrArg fieldCode h
    · simpa using congrArg fieldX h
    · simpa using congrArg fieldY h
    · simpa using congrArg fieldN h
  · rintro ⟨rfl, rfl, rfl, rfl⟩; rfl

theorem and_nibble_ones (a : Nibble) : a &&& 0xF#4 = a := BitVec.and_allOnes

/-- What the mask of a row with only its family fixed keeps of a word. -/
theorem and_F000 (w : Word) : w &&& 0xF000#16 = formXYN (fieldCode w) 0 0 0 := by
  conv_lhs => rw [← formXYN_fields w]
  rw [show 0xF000#16 = formXYN 0xF 0 0 0 from rfl, formXYN_and]
  simp [and_nibble_ones]

/-- What the mask of a row that fixes its family and n keeps of a word. -/
theorem and_F00F (w : Word) : w &&& 0xF00F#16 = formXYN (fieldCode w) 0 0 (fieldN w) := by
  conv_lhs => rw [← formXYN_fields w]
  rw [show 0xF00F#16 = formXYN 0xF 0 0 0xF from rfl, formXYN_and]
  simp [and_nibble_ones]

/-- What the mask of a row that fixes its family and nn keeps of a word. -/
theorem and_F0FF (w : Word) : w &&& 0xF0FF#16 = formXYN (fieldCode w) 0 (fieldY w) (fieldN w) := by
  conv_lhs => rw [← formXYN_fields w]
  rw [show 0xF0FF#16 = formXYN 0xF 0 0xF 0xF from rfl, formXYN_and]
  simp [and_nibble_ones]

/-- The low byte of a word as its two nibbles (R72). -/
theorem fieldNN_eq_iff (w : Word) (y n : Nibble) : fieldNN w = y ++ n ↔ fieldY w = y ∧ fieldN w = n := by
  have e : (y ++ n : BitVec (4 + 4)).toNat = _ := toNat_append_eq y n
  constructor
  · intro h
    have := congrArg BitVec.toNat h
    rw [toNat_fieldNN, e] at this
    constructor <;> apply BitVec.eq_of_toNat_eq
    · rw [toNat_fieldY]; omega
    · rw [toNat_fieldN]; omega
  · rintro ⟨rfl, rfl⟩
    apply BitVec.eq_of_toNat_eq
    rw [toNat_fieldNN, e, toNat_fieldY, toNat_fieldN]
    omega

/-- The low 12 bits of a word as its three nibbles (R72). -/
theorem fieldNNN_eq_iff (w : Word) (nnn : Addr12) :
    fieldNNN w = nnn ↔ fieldX w = nnn.extractLsb' 8 4 ∧ fieldY w = nnn.extractLsb' 4 4 ∧
      fieldN w = nnn.extractLsb' 0 4 := by
  simp only [← BitVec.toNat_inj, toNat_fieldNNN, toNat_fieldX, toNat_fieldY, toNat_fieldN,
    BitVec.extractLsb'_toNat, Nat.shiftRight_eq_div_pow]
  omega

end Sys2Proof
end

