-- ==== Sys2Proof/Laws/State.lean ====
section
/-! SUPPORT. One lemma per field per named update of the state, and what reading a register gives after one. -/

namespace Sys2Proof.Machine

section
variable (s : State)

@[simp] theorem State.writeV_mem (r : RegIx) (b : Byte) : (s.writeV r b).mem = s.mem := rfl
@[simp] theorem State.writeV_v (r : RegIx) (b : Byte) : (s.writeV r b).v = s.v.set r.toNat b r.isLt := rfl
@[simp] theorem State.writeV_i (r : RegIx) (b : Byte) : (s.writeV r b).i = s.i := rfl
@[simp] theorem State.writeV_pc (r : RegIx) (b : Byte) : (s.writeV r b).pc = s.pc := rfl
@[simp] theorem State.writeV_stack (r : RegIx) (b : Byte) : (s.writeV r b).stack = s.stack := rfl
@[simp] theorem State.writeV_sp (r : RegIx) (b : Byte) : (s.writeV r b).sp = s.sp := rfl
@[simp] theorem State.writeV_dt (r : RegIx) (b : Byte) : (s.writeV r b).dt = s.dt := rfl
@[simp] theorem State.writeV_st (r : RegIx) (b : Byte) : (s.writeV r b).st = s.st := rfl
@[simp] theorem State.writeV_disp (r : RegIx) (b : Byte) : (s.writeV r b).disp = s.disp := rfl
@[simp] theorem State.writeV_dirty (r : RegIx) (b : Byte) : (s.writeV r b).dirty = s.dirty := rfl
@[simp] theorem State.writeV_keys (r : RegIx) (b : Byte) : (s.writeV r b).keys = s.keys := rfl
@[simp] theorem State.writeV_run (r : RegIx) (b : Byte) : (s.writeV r b).run = s.run := rfl
@[simp] theorem State.writeV_draws (r : RegIx) (b : Byte) : (s.writeV r b).draws = s.draws := rfl

@[simp] theorem State.setI_mem (a : Word) : (s.setI a).mem = s.mem := rfl
@[simp] theorem State.setI_v (a : Word) : (s.setI a).v = s.v := rfl
@[simp] theorem State.setI_i (a : Word) : (s.setI a).i = a := rfl
@[simp] theorem State.setI_pc (a : Word) : (s.setI a).pc = s.pc := rfl
@[simp] theorem State.setI_stack (a : Word) : (s.setI a).stack = s.stack := rfl
@[simp] theorem State.setI_sp (a : Word) : (s.setI a).sp = s.sp := rfl
@[simp] theorem State.setI_dt (a : Word) : (s.setI a).dt = s.dt := rfl
@[simp] theorem State.setI_st (a : Word) : (s.setI a).st = s.st := rfl
@[simp] theorem State.setI_disp (a : Word) : (s.setI a).disp = s.disp := rfl
@[simp] theorem State.setI_dirty (a : Word) : (s.setI a).dirty = s.dirty := rfl
@[simp] theorem State.setI_keys (a : Word) : (s.setI a).keys = s.keys := rfl
@[simp] theorem State.setI_run (a : Word) : (s.setI a).run = s.run := rfl
@[simp] theorem State.setI_draws (a : Word) : (s.setI a).draws = s.draws := rfl
@[simp] theorem State.setI_readV (a : Word) (q : RegIx) : (s.setI a).readV q = s.readV q := rfl

@[simp] theorem State.setPc_mem (a : Word) : (s.setPc a).mem = s.mem := rfl
@[simp] theorem State.setPc_v (a : Word) : (s.setPc a).v = s.v := rfl
@[simp] theorem State.setPc_i (a : Word) : (s.setPc a).i = s.i := rfl
@[simp] theorem State.setPc_pc (a : Word) : (s.setPc a).pc = a := rfl
@[simp] theorem State.setPc_stack (a : Word) : (s.setPc a).stack = s.stack := rfl
@[simp] theorem State.setPc_sp (a : Word) : (s.setPc a).sp = s.sp := rfl
@[simp] theorem State.setPc_dt (a : Word) : (s.setPc a).dt = s.dt := rfl
@[simp] theorem State.setPc_st (a : Word) : (s.setPc a).st = s.st := rfl
@[simp] theorem State.setPc_disp (a : Word) : (s.setPc a).disp = s.disp := rfl
@[simp] theorem State.setPc_dirty (a : Word) : (s.setPc a).dirty = s.dirty := rfl
@[simp] theorem State.setPc_keys (a : Word) : (s.setPc a).keys = s.keys := rfl
@[simp] theorem State.setPc_run (a : Word) : (s.setPc a).run = s.run := rfl
@[simp] theorem State.setPc_draws (a : Word) : (s.setPc a).draws = s.draws := rfl
@[simp] theorem State.setPc_readV (a : Word) (q : RegIx) : (s.setPc a).readV q = s.readV q := rfl

@[simp] theorem State.setDt_mem (b : Byte) : (s.setDt b).mem = s.mem := rfl
@[simp] theorem State.setDt_v (b : Byte) : (s.setDt b).v = s.v := rfl
@[simp] theorem State.setDt_i (b : Byte) : (s.setDt b).i = s.i := rfl
@[simp] theorem State.setDt_pc (b : Byte) : (s.setDt b).pc = s.pc := rfl
@[simp] theorem State.setDt_stack (b : Byte) : (s.setDt b).stack = s.stack := rfl
@[simp] theorem State.setDt_sp (b : Byte) : (s.setDt b).sp = s.sp := rfl
@[simp] theorem State.setDt_dt (b : Byte) : (s.setDt b).dt = b := rfl
@[simp] theorem State.setDt_st (b : Byte) : (s.setDt b).st = s.st := rfl
@[simp] theorem State.setDt_disp (b : Byte) : (s.setDt b).disp = s.disp := rfl
@[simp] theorem State.setDt_dirty (b : Byte) : (s.setDt b).dirty = s.dirty := rfl
@[simp] theorem State.setDt_keys (b : Byte) : (s.setDt b).keys = s.keys := rfl
@[simp] theorem State.setDt_run (b : Byte) : (s.setDt b).run = s.run := rfl
@[simp] theorem State.setDt_draws (b : Byte) : (s.setDt b).draws = s.draws := rfl
@[simp] theorem State.setDt_readV (b : Byte) (q : RegIx) : (s.setDt b).readV q = s.readV q := rfl

@[simp] theorem State.setSt_mem (b : Byte) : (s.setSt b).mem = s.mem := rfl
@[simp] theorem State.setSt_v (b : Byte) : (s.setSt b).v = s.v := rfl
@[simp] theorem State.setSt_i (b : Byte) : (s.setSt b).i = s.i := rfl
@[simp] theorem State.setSt_pc (b : Byte) : (s.setSt b).pc = s.pc := rfl
@[simp] theorem State.setSt_stack (b : Byte) : (s.setSt b).stack = s.stack := rfl
@[simp] theorem State.setSt_sp (b : Byte) : (s.setSt b).sp = s.sp := rfl
@[simp] theorem State.setSt_dt (b : Byte) : (s.setSt b).dt = s.dt := rfl
@[simp] theorem State.setSt_st (b : Byte) : (s.setSt b).st = b := rfl
@[simp] theorem State.setSt_disp (b : Byte) : (s.setSt b).disp = s.disp := rfl
@[simp] theorem State.setSt_dirty (b : Byte) : (s.setSt b).dirty = s.dirty := rfl
@[simp] theorem State.setSt_keys (b : Byte) : (s.setSt b).keys = s.keys := rfl
@[simp] theorem State.setSt_run (b : Byte) : (s.setSt b).run = s.run := rfl
@[simp] theorem State.setSt_draws (b : Byte) : (s.setSt b).draws = s.draws := rfl
@[simp] theorem State.setSt_readV (b : Byte) (q : RegIx) : (s.setSt b).readV q = s.readV q := rfl

@[simp] theorem State.setMem_mem (m : Memory) : (s.setMem m).mem = m := rfl
@[simp] theorem State.setMem_v (m : Memory) : (s.setMem m).v = s.v := rfl
@[simp] theorem State.setMem_i (m : Memory) : (s.setMem m).i = s.i := rfl
@[simp] theorem State.setMem_pc (m : Memory) : (s.setMem m).pc = s.pc := rfl
@[simp] theorem State.setMem_stack (m : Memory) : (s.setMem m).stack = s.stack := rfl
@[simp] theorem State.setMem_sp (m : Memory) : (s.setMem m).sp = s.sp := rfl
@[simp] theorem State.setMem_dt (m : Memory) : (s.setMem m).dt = s.dt := rfl
@[simp] theorem State.setMem_st (m : Memory) : (s.setMem m).st = s.st := rfl
@[simp] theorem State.setMem_disp (m : Memory) : (s.setMem m).disp = s.disp := rfl
@[simp] theorem State.setMem_dirty (m : Memory) : (s.setMem m).dirty = s.dirty := rfl
@[simp] theorem State.setMem_keys (m : Memory) : (s.setMem m).keys = s.keys := rfl
@[simp] theorem State.setMem_run (m : Memory) : (s.setMem m).run = s.run := rfl
@[simp] theorem State.setMem_draws (m : Memory) : (s.setMem m).draws = s.draws := rfl
@[simp] theorem State.setMem_readV (m : Memory) (q : RegIx) : (s.setMem m).readV q = s.readV q := rfl

@[simp] theorem State.setDisp_mem (d : Display) : (s.setDisp d).mem = s.mem := rfl
@[simp] theorem State.setDisp_v (d : Display) : (s.setDisp d).v = s.v := rfl
@[simp] theorem State.setDisp_i (d : Display) : (s.setDisp d).i = s.i := rfl
@[simp] theorem State.setDisp_pc (d : Display) : (s.setDisp d).pc = s.pc := rfl
@[simp] theorem State.setDisp_stack (d : Display) : (s.setDisp d).stack = s.stack := rfl
@[simp] theorem State.setDisp_sp (d : Display) : (s.setDisp d).sp = s.sp := rfl
@[simp] theorem State.setDisp_dt (d : Display) : (s.setDisp d).dt = s.dt := rfl
@[simp] theorem State.setDisp_st (d : Display) : (s.setDisp d).st = s.st := rfl
@[simp] theorem State.setDisp_disp (d : Display) : (s.setDisp d).disp = d := rfl
@[simp] theorem State.setDisp_dirty (d : Display) : (s.setDisp d).dirty = s.dirty := rfl
@[simp] theorem State.setDisp_keys (d : Display) : (s.setDisp d).keys = s.keys := rfl
@[simp] theorem State.setDisp_run (d : Display) : (s.setDisp d).run = s.run := rfl
@[simp] theorem State.setDisp_draws (d : Display) : (s.setDisp d).draws = s.draws := rfl
@[simp] theorem State.setDisp_readV (d : Display) (q : RegIx) : (s.setDisp d).readV q = s.readV q := rfl

@[simp] theorem State.setDirty_mem (b : Bool) : (s.setDirty b).mem = s.mem := rfl
@[simp] theorem State.setDirty_v (b : Bool) : (s.setDirty b).v = s.v := rfl
@[simp] theorem State.setDirty_i (b : Bool) : (s.setDirty b).i = s.i := rfl
@[simp] theorem State.setDirty_pc (b : Bool) : (s.setDirty b).pc = s.pc := rfl
@[simp] theorem State.setDirty_stack (b : Bool) : (s.setDirty b).stack = s.stack := rfl
@[simp] theorem State.setDirty_sp (b : Bool) : (s.setDirty b).sp = s.sp := rfl
@[simp] theorem State.setDirty_dt (b : Bool) : (s.setDirty b).dt = s.dt := rfl
@[simp] theorem State.setDirty_st (b : Bool) : (s.setDirty b).st = s.st := rfl
@[simp] theorem State.setDirty_disp (b : Bool) : (s.setDirty b).disp = s.disp := rfl
@[simp] theorem State.setDirty_dirty (b : Bool) : (s.setDirty b).dirty = b := rfl
@[simp] theorem State.setDirty_keys (b : Bool) : (s.setDirty b).keys = s.keys := rfl
@[simp] theorem State.setDirty_run (b : Bool) : (s.setDirty b).run = s.run := rfl
@[simp] theorem State.setDirty_draws (b : Bool) : (s.setDirty b).draws = s.draws := rfl
@[simp] theorem State.setDirty_readV (b : Bool) (q : RegIx) : (s.setDirty b).readV q = s.readV q := rfl

@[simp] theorem State.setKeys_mem (k : Vector Bool 16) : (s.setKeys k).mem = s.mem := rfl
@[simp] theorem State.setKeys_v (k : Vector Bool 16) : (s.setKeys k).v = s.v := rfl
@[simp] theorem State.setKeys_i (k : Vector Bool 16) : (s.setKeys k).i = s.i := rfl
@[simp] theorem State.setKeys_pc (k : Vector Bool 16) : (s.setKeys k).pc = s.pc := rfl
@[simp] theorem State.setKeys_stack (k : Vector Bool 16) : (s.setKeys k).stack = s.stack := rfl
@[simp] theorem State.setKeys_sp (k : Vector Bool 16) : (s.setKeys k).sp = s.sp := rfl
@[simp] theorem State.setKeys_dt (k : Vector Bool 16) : (s.setKeys k).dt = s.dt := rfl
@[simp] theorem State.setKeys_st (k : Vector Bool 16) : (s.setKeys k).st = s.st := rfl
@[simp] theorem State.setKeys_disp (k : Vector Bool 16) : (s.setKeys k).disp = s.disp := rfl
@[simp] theorem State.setKeys_dirty (k : Vector Bool 16) : (s.setKeys k).dirty = s.dirty := rfl
@[simp] theorem State.setKeys_keys (k : Vector Bool 16) : (s.setKeys k).keys = k := rfl
@[simp] theorem State.setKeys_run (k : Vector Bool 16) : (s.setKeys k).run = s.run := rfl
@[simp] theorem State.setKeys_draws (k : Vector Bool 16) : (s.setKeys k).draws = s.draws := rfl
@[simp] theorem State.setKeys_readV (k : Vector Bool 16) (q : RegIx) : (s.setKeys k).readV q = s.readV q := rfl

@[simp] theorem State.setRun_mem (r : RunState) : (s.setRun r).mem = s.mem := rfl
@[simp] theorem State.setRun_v (r : RunState) : (s.setRun r).v = s.v := rfl
@[simp] theorem State.setRun_i (r : RunState) : (s.setRun r).i = s.i := rfl
@[simp] theorem State.setRun_pc (r : RunState) : (s.setRun r).pc = s.pc := rfl
@[simp] theorem State.setRun_stack (r : RunState) : (s.setRun r).stack = s.stack := rfl
@[simp] theorem State.setRun_sp (r : RunState) : (s.setRun r).sp = s.sp := rfl
@[simp] theorem State.setRun_dt (r : RunState) : (s.setRun r).dt = s.dt := rfl
@[simp] theorem State.setRun_st (r : RunState) : (s.setRun r).st = s.st := rfl
@[simp] theorem State.setRun_disp (r : RunState) : (s.setRun r).disp = s.disp := rfl
@[simp] theorem State.setRun_dirty (r : RunState) : (s.setRun r).dirty = s.dirty := rfl
@[simp] theorem State.setRun_keys (r : RunState) : (s.setRun r).keys = s.keys := rfl
@[simp] theorem State.setRun_run (r : RunState) : (s.setRun r).run = r := rfl
@[simp] theorem State.setRun_draws (r : RunState) : (s.setRun r).draws = s.draws := rfl
@[simp] theorem State.setRun_readV (r : RunState) (q : RegIx) : (s.setRun r).readV q = s.readV q := rfl

@[simp] theorem State.nextDraw_mem : (s.nextDraw).mem = s.mem := rfl
@[simp] theorem State.nextDraw_v : (s.nextDraw).v = s.v := rfl
@[simp] theorem State.nextDraw_i : (s.nextDraw).i = s.i := rfl
@[simp] theorem State.nextDraw_pc : (s.nextDraw).pc = s.pc := rfl
@[simp] theorem State.nextDraw_stack : (s.nextDraw).stack = s.stack := rfl
@[simp] theorem State.nextDraw_sp : (s.nextDraw).sp = s.sp := rfl
@[simp] theorem State.nextDraw_dt : (s.nextDraw).dt = s.dt := rfl
@[simp] theorem State.nextDraw_st : (s.nextDraw).st = s.st := rfl
@[simp] theorem State.nextDraw_disp : (s.nextDraw).disp = s.disp := rfl
@[simp] theorem State.nextDraw_dirty : (s.nextDraw).dirty = s.dirty := rfl
@[simp] theorem State.nextDraw_keys : (s.nextDraw).keys = s.keys := rfl
@[simp] theorem State.nextDraw_run : (s.nextDraw).run = s.run := rfl
@[simp] theorem State.nextDraw_draws : (s.nextDraw).draws = s.draws + 1 := rfl
@[simp] theorem State.nextDraw_readV (q : RegIx) : (s.nextDraw).readV q = s.readV q := rfl

@[simp] theorem State.advancePc_mem : (s.advancePc).mem = s.mem := rfl
@[simp] theorem State.advancePc_v : (s.advancePc).v = s.v := rfl
@[simp] theorem State.advancePc_i : (s.advancePc).i = s.i := rfl
@[simp] theorem State.advancePc_pc : (s.advancePc).pc = s.pc + 2#16 := rfl
@[simp] theorem State.advancePc_stack : (s.advancePc).stack = s.stack := rfl
@[simp] theorem State.advancePc_sp : (s.advancePc).sp = s.sp := rfl
@[simp] theorem State.advancePc_dt : (s.advancePc).dt = s.dt := rfl
@[simp] theorem State.advancePc_st : (s.advancePc).st = s.st := rfl
@[simp] theorem State.advancePc_disp : (s.advancePc).disp = s.disp := rfl
@[simp] theorem State.advancePc_dirty : (s.advancePc).dirty = s.dirty := rfl
@[simp] theorem State.advancePc_keys : (s.advancePc).keys = s.keys := rfl
@[simp] theorem State.advancePc_run : (s.advancePc).run = s.run := rfl
@[simp] theorem State.advancePc_draws : (s.advancePc).draws = s.draws := rfl
@[simp] theorem State.advancePc_readV (q : RegIx) : (s.advancePc).readV q = s.readV q := rfl

@[simp] theorem State.rewindPc_mem : (s.rewindPc).mem = s.mem := rfl
@[simp] theorem State.rewindPc_v : (s.rewindPc).v = s.v := rfl
@[simp] theorem State.rewindPc_i : (s.rewindPc).i = s.i := rfl
@[simp] theorem State.rewindPc_pc : (s.rewindPc).pc = s.execAddr := rfl
@[simp] theorem State.rewindPc_stack : (s.rewindPc).stack = s.stack := rfl
@[simp] theorem State.rewindPc_sp : (s.rewindPc).sp = s.sp := rfl
@[simp] theorem State.rewindPc_dt : (s.rewindPc).dt = s.dt := rfl
@[simp] theorem State.rewindPc_st : (s.rewindPc).st = s.st := rfl
@[simp] theorem State.rewindPc_disp : (s.rewindPc).disp = s.disp := rfl
@[simp] theorem State.rewindPc_dirty : (s.rewindPc).dirty = s.dirty := rfl
@[simp] theorem State.rewindPc_keys : (s.rewindPc).keys = s.keys := rfl
@[simp] theorem State.rewindPc_run : (s.rewindPc).run = s.run := rfl
@[simp] theorem State.rewindPc_draws : (s.rewindPc).draws = s.draws := rfl
@[simp] theorem State.rewindPc_readV (q : RegIx) : (s.rewindPc).readV q = s.readV q := rfl

@[simp] theorem State.enterFaulted_mem (c : FaultCause) (a : Word) (n : Nat) : (s.enterFaulted c a n).mem = s.mem := rfl
@[simp] theorem State.enterFaulted_v (c : FaultCause) (a : Word) (n : Nat) : (s.enterFaulted c a n).v = s.v := rfl
@[simp] theorem State.enterFaulted_i (c : FaultCause) (a : Word) (n : Nat) : (s.enterFaulted c a n).i = s.i := rfl
@[simp] theorem State.enterFaulted_pc (c : FaultCause) (a : Word) (n : Nat) : (s.enterFaulted c a n).pc = a := rfl
@[simp] theorem State.enterFaulted_stack (c : FaultCause) (a : Word) (n : Nat) : (s.enterFaulted c a n).stack = s.stack := rfl
@[simp] theorem State.enterFaulted_sp (c : FaultCause) (a : Word) (n : Nat) : (s.enterFaulted c a n).sp = s.sp := rfl
@[simp] theorem State.enterFaulted_dt (c : FaultCause) (a : Word) (n : Nat) : (s.enterFaulted c a n).dt = s.dt := rfl
@[simp] theorem State.enterFaulted_st (c : FaultCause) (a : Word) (n : Nat) : (s.enterFaulted c a n).st = s.st := rfl
@[simp] theorem State.enterFaulted_disp (c : FaultCause) (a : Word) (n : Nat) : (s.enterFaulted c a n).disp = s.disp := rfl
@[simp] theorem State.enterFaulted_dirty (c : FaultCause) (a : Word) (n : Nat) : (s.enterFaulted c a n).dirty = s.dirty := rfl
@[simp] theorem State.enterFaulted_keys (c : FaultCause) (a : Word) (n : Nat) : (s.enterFaulted c a n).keys = s.keys := rfl
@[simp] theorem State.enterFaulted_run (c : FaultCause) (a : Word) (n : Nat) : (s.enterFaulted c a n).run = .faulted ⟨c, a, n⟩ := rfl
@[simp] theorem State.enterFaulted_draws (c : FaultCause) (a : Word) (n : Nat) : (s.enterFaulted c a n).draws = s.draws := rfl
@[simp] theorem State.enterFaulted_readV (c : FaultCause) (a : Word) (n : Nat) (q : RegIx) : (s.enterFaulted c a n).readV q = s.readV q := rfl

@[simp] theorem State.fetchFault_mem : (s.fetchFault).mem = s.mem := rfl
@[simp] theorem State.fetchFault_v : (s.fetchFault).v = s.v := rfl
@[simp] theorem State.fetchFault_i : (s.fetchFault).i = s.i := rfl
@[simp] theorem State.fetchFault_pc : (s.fetchFault).pc = s.pc := rfl
@[simp] theorem State.fetchFault_stack : (s.fetchFault).stack = s.stack := rfl
@[simp] theorem State.fetchFault_sp : (s.fetchFault).sp = s.sp := rfl
@[simp] theorem State.fetchFault_dt : (s.fetchFault).dt = s.dt := rfl
@[simp] theorem State.fetchFault_st : (s.fetchFault).st = s.st := rfl
@[simp] theorem State.fetchFault_disp : (s.fetchFault).disp = s.disp := rfl
@[simp] theorem State.fetchFault_dirty : (s.fetchFault).dirty = s.dirty := rfl
@[simp] theorem State.fetchFault_keys : (s.fetchFault).keys = s.keys := rfl
@[simp] theorem State.fetchFault_run : (s.fetchFault).run = .faulted ⟨.fetchOutOfRange, s.pc, s.pc.toNat⟩ := rfl
@[simp] theorem State.fetchFault_draws : (s.fetchFault).draws = s.draws := rfl
@[simp] theorem State.fetchFault_readV (q : RegIx) : (s.fetchFault).readV q = s.readV q := rfl

@[simp] theorem State.loadBlock_mem (bs : List Byte) : (s.loadBlock bs).mem = s.mem := rfl
@[simp] theorem State.loadBlock_v (bs : List Byte) : (s.loadBlock bs).v = Vector.ofFn fun k : Fin 16 => bs.getD k.val s.v[k.val] := rfl
@[simp] theorem State.loadBlock_i (bs : List Byte) : (s.loadBlock bs).i = s.i := rfl
@[simp] theorem State.loadBlock_pc (bs : List Byte) : (s.loadBlock bs).pc = s.pc := rfl
@[simp] theorem State.loadBlock_stack (bs : List Byte) : (s.loadBlock bs).stack = s.stack := rfl
@[simp] theorem State.loadBlock_sp (bs : List Byte) : (s.loadBlock bs).sp = s.sp := rfl
@[simp] theorem State.loadBlock_dt (bs : List Byte) : (s.loadBlock bs).dt = s.dt := rfl
@[simp] theorem State.loadBlock_st (bs : List Byte) : (s.loadBlock bs).st = s.st := rfl
@[simp] theorem State.loadBlock_disp (bs : List Byte) : (s.loadBlock bs).disp = s.disp := rfl
@[simp] theorem State.loadBlock_dirty (bs : List Byte) : (s.loadBlock bs).dirty = s.dirty := rfl
@[simp] theorem State.loadBlock_keys (bs : List Byte) : (s.loadBlock bs).keys = s.keys := rfl
@[simp] theorem State.loadBlock_run (bs : List Byte) : (s.loadBlock bs).run = s.run := rfl
@[simp] theorem State.loadBlock_draws (bs : List Byte) : (s.loadBlock bs).draws = s.draws := rfl

@[simp] theorem State.tick_mem : (s.tick).mem = s.mem := rfl
@[simp] theorem State.tick_v : (s.tick).v = s.v := rfl
@[simp] theorem State.tick_i : (s.tick).i = s.i := rfl
@[simp] theorem State.tick_pc : (s.tick).pc = s.pc := rfl
@[simp] theorem State.tick_stack : (s.tick).stack = s.stack := rfl
@[simp] theorem State.tick_sp : (s.tick).sp = s.sp := rfl
@[simp] theorem State.tick_dt : (s.tick).dt = tickDown s.dt := rfl
@[simp] theorem State.tick_st : (s.tick).st = tickDown s.st := rfl
@[simp] theorem State.tick_disp : (s.tick).disp = s.disp := rfl
@[simp] theorem State.tick_dirty : (s.tick).dirty = s.dirty := rfl
@[simp] theorem State.tick_keys : (s.tick).keys = s.keys := rfl
@[simp] theorem State.tick_run : (s.tick).run = s.run := rfl
@[simp] theorem State.tick_draws : (s.tick).draws = s.draws := rfl
@[simp] theorem State.tick_readV (q : RegIx) : (s.tick).readV q = s.readV q := rfl

@[simp] theorem State.skipIf_mem (c : Bool) : (s.skipIf c).mem = s.mem := by cases c <;> rfl
@[simp] theorem State.skipIf_v (c : Bool) : (s.skipIf c).v = s.v := by cases c <;> rfl
@[simp] theorem State.skipIf_i (c : Bool) : (s.skipIf c).i = s.i := by cases c <;> rfl
@[simp] theorem State.skipIf_stack (c : Bool) : (s.skipIf c).stack = s.stack := by cases c <;> rfl
@[simp] theorem State.skipIf_sp (c : Bool) : (s.skipIf c).sp = s.sp := by cases c <;> rfl
@[simp] theorem State.skipIf_dt (c : Bool) : (s.skipIf c).dt = s.dt := by cases c <;> rfl
@[simp] theorem State.skipIf_st (c : Bool) : (s.skipIf c).st = s.st := by cases c <;> rfl
@[simp] theorem State.skipIf_disp (c : Bool) : (s.skipIf c).disp = s.disp := by cases c <;> rfl
@[simp] theorem State.skipIf_dirty (c : Bool) : (s.skipIf c).dirty = s.dirty := by cases c <;> rfl
@[simp] theorem State.skipIf_keys (c : Bool) : (s.skipIf c).keys = s.keys := by cases c <;> rfl
@[simp] theorem State.skipIf_run (c : Bool) : (s.skipIf c).run = s.run := by cases c <;> rfl
@[simp] theorem State.skipIf_draws (c : Bool) : (s.skipIf c).draws = s.draws := by cases c <;> rfl
@[simp] theorem State.skipIf_pc (c : Bool) : (s.skipIf c).pc = if c then s.pc + 2#16 else s.pc := by cases c <;> rfl
@[simp] theorem State.skipIf_readV (c : Bool) (q : RegIx) : (s.skipIf c).readV q = s.readV q := by cases c <;> rfl

@[simp] theorem State.resetUnder_mem (p : Config.Parameters) : (State.resetUnder p).mem = fontMemory p.font := rfl
@[simp] theorem State.resetUnder_v (p : Config.Parameters) : (State.resetUnder p).v = State.reset.v := rfl
@[simp] theorem State.resetUnder_i (p : Config.Parameters) : (State.resetUnder p).i = State.reset.i := rfl
@[simp] theorem State.resetUnder_pc (p : Config.Parameters) : (State.resetUnder p).pc = State.reset.pc := rfl
@[simp] theorem State.resetUnder_stack (p : Config.Parameters) : (State.resetUnder p).stack = State.reset.stack := rfl
@[simp] theorem State.resetUnder_sp (p : Config.Parameters) : (State.resetUnder p).sp = State.reset.sp := rfl
@[simp] theorem State.resetUnder_dt (p : Config.Parameters) : (State.resetUnder p).dt = State.reset.dt := rfl
@[simp] theorem State.resetUnder_st (p : Config.Parameters) : (State.resetUnder p).st = State.reset.st := rfl
@[simp] theorem State.resetUnder_disp (p : Config.Parameters) : (State.resetUnder p).disp = State.reset.disp := rfl
@[simp] theorem State.resetUnder_dirty (p : Config.Parameters) : (State.resetUnder p).dirty = State.reset.dirty := rfl
@[simp] theorem State.resetUnder_keys (p : Config.Parameters) : (State.resetUnder p).keys = State.reset.keys := rfl
@[simp] theorem State.resetUnder_run (p : Config.Parameters) : (State.resetUnder p).run = State.reset.run := rfl
@[simp] theorem State.resetUnder_draws (p : Config.Parameters) : (State.resetUnder p).draws = State.reset.draws := rfl

@[simp] theorem State.resetAgain_mem (p : Config.Parameters) : (s.resetAgain p).mem = fontMemory p.font := rfl
@[simp] theorem State.resetAgain_v (p : Config.Parameters) : (s.resetAgain p).v = State.reset.v := rfl
@[simp] theorem State.resetAgain_i (p : Config.Parameters) : (s.resetAgain p).i = State.reset.i := rfl
@[simp] theorem State.resetAgain_pc (p : Config.Parameters) : (s.resetAgain p).pc = State.reset.pc := rfl
@[simp] theorem State.resetAgain_stack (p : Config.Parameters) : (s.resetAgain p).stack = State.reset.stack := rfl
@[simp] theorem State.resetAgain_sp (p : Config.Parameters) : (s.resetAgain p).sp = State.reset.sp := rfl
@[simp] theorem State.resetAgain_dt (p : Config.Parameters) : (s.resetAgain p).dt = State.reset.dt := rfl
@[simp] theorem State.resetAgain_st (p : Config.Parameters) : (s.resetAgain p).st = State.reset.st := rfl
@[simp] theorem State.resetAgain_disp (p : Config.Parameters) : (s.resetAgain p).disp = State.reset.disp := rfl
@[simp] theorem State.resetAgain_dirty (p : Config.Parameters) : (s.resetAgain p).dirty = State.reset.dirty := rfl
@[simp] theorem State.resetAgain_keys (p : Config.Parameters) : (s.resetAgain p).keys = State.reset.keys := rfl
@[simp] theorem State.resetAgain_run (p : Config.Parameters) : (s.resetAgain p).run = State.reset.run := rfl
@[simp] theorem State.resetAgain_draws (p : Config.Parameters) : (s.resetAgain p).draws = s.draws := rfl

end

end Sys2Proof.Machine
end

