-- ==== Sys2Proof/Laws/Registers.lean ====
section
/-! SUPPORT. Reading a register after a write, the register block of `Fx55` and `Fx65`, and the pc's round trips. -/

namespace Sys2Proof.Machine

theorem State.readV_writeV (s : State) (r q : RegIx) (b : Byte) :
    (s.writeV r b).readV q = if q = r then b else s.readV q := by
  unfold State.readV State.writeV
  by_cases h : q = r
  · subst h; simp
  · have : r.toNat ≠ q.toNat := fun e => h (BitVec.eq_of_toNat_eq e.symm)
    simp [h, this]

@[simp] theorem State.readV_writeV_same (s : State) (r : RegIx) (b : Byte) :
    (s.writeV r b).readV r = b := by simp [State.readV_writeV]

theorem State.readV_writeV_ne (s : State) {r q : RegIx} (b : Byte) (h : q ≠ r) :
    (s.writeV r b).readV q = s.readV q := by simp [State.readV_writeV, h]

/-- A register by its number. -/
theorem State.readV_ofNat (s : State) (k : Nat) (h : k < 16) :
    s.readV (BitVec.ofNat 4 k) = s.v[k] := by
  have : (BitVec.ofNat 4 k).toNat = k := by simp; omega
  simp [State.readV, this]

@[simp] theorem State.regBlock_length (s : State) (x : RegIx) : (s.regBlock x).length = x.toNat + 1 := by
  have := x.isLt
  simp [State.regBlock]
  omega

/-- Byte `k` of the block is `V[k]`. -/
theorem State.regBlock_get (s : State) (x : RegIx) (k : Nat) (h : k ≤ x.toNat) :
    (s.regBlock x)[k]? = some (s.readV (BitVec.ofNat 4 k)) := by
  have hx := x.isLt
  have hk : k < 16 := by omega
  rw [State.readV_ofNat s k hk]
  simp [State.regBlock, List.getElem?_take, hk]
  omega

/-- A loaded register takes its byte of the list; one past the list keeps its value. -/
theorem State.readV_loadBlock (s : State) (bs : List Byte) (q : RegIx) :
    (s.loadBlock bs).readV q = bs.getD q.toNat (s.readV q) := by
  simp [State.loadBlock, State.readV]

/-- The address of the executing word is where the fetch found it: u16(addr + 2) − 2 = addr. -/
@[simp] theorem State.execAddr_advancePc (s : State) : s.advancePc.execAddr = s.pc := by
  simp [State.execAddr]

/-- The rewind undoes the fetch's advance, and leaves the state as it was (45_keys_timers.md R193). -/
@[simp] theorem State.rewindPc_advancePc (s : State) : s.advancePc.rewindPc = s := by
  simp [State.rewindPc, State.setPc, State.advancePc, State.execAddr]

/-- Fault entry from an advanced state is fault entry from the state before the fetch. -/
theorem State.enterFaulted_advancePc (s : State) (c : FaultCause) (n : Nat) :
    s.advancePc.enterFaulted c s.pc n = s.setRun (.faulted ⟨c, s.pc, n⟩) := rfl

/-- A fault of the instruction at pc leaves everything but `run` as it was before the fetch (60_exceptions.md R204). -/
theorem raiseFault_advancePc (s : State) (c : FaultCause) (n : Nat) :
    raiseFault c n s.advancePc = .next (s.setRun (.faulted ⟨c, s.pc, n⟩)) := by
  simp [raiseFault, State.enterFaulted_advancePc]

theorem State.fetchFault_eq (s : State) :
    s.fetchFault = s.setRun (.faulted ⟨.fetchOutOfRange, s.pc, s.pc.toNat⟩) := rfl

end Sys2Proof.Machine
end

