-- ==== Sys2Proof/Laws/Memory.lean ====
section
/-! SUPPORT. Memory: read after write, the canonical form, blocks. -/

namespace Sys2Proof.Machine

/-! ### One byte -/

theorem Memory.get_insertCell (m : Memory) (a b : Nat) (v : Byte) :
    (m.insertCell a v).get b = if b = a then v else m.get b := by
  induction m with
  | nil =>
    by_cases h : b = a
    · simp [Memory.insertCell, Memory.get, h]
    · simp [Memory.insertCell, Memory.get, h, Ne.symm h]
  | cons c rest ih =>
    obtain ⟨k, w⟩ := c
    unfold Memory.insertCell
    split
    · by_cases h : b = a
      · simp [Memory.get, h]
      · simp [Memory.get, h, Ne.symm h]
    · split
      · subst_vars
        by_cases h : b = k
        · simp [Memory.get, h]
        · simp [Memory.get, h, Ne.symm h]
      · rename_i hne
        by_cases h : k = b
        · subst h; simp [Memory.get, Ne.symm hne]
        · simp [Memory.get, h, ih]

/-- An address below every listed one reads as its reset byte. -/
theorem Memory.get_of_lt (m : Memory) (a : Nat) (h : ∀ c ∈ m, a < c.1) : m.get a = memResetByte a := by
  induction m with
  | nil => rfl
  | cons c rest ih =>
    obtain ⟨k, w⟩ := c
    have hk : a < k := h (k, w) (by simp)
    simp only [Memory.get, if_neg (Nat.ne_of_gt hk)]
    exact ih fun c hc => h c (by simp [hc])

theorem Memory.get_eraseCell (m : Memory) (a b : Nat)
    (hm : m.Pairwise fun c d => c.1 < d.1) :
    (m.eraseCell a).get b = if b = a then memResetByte a else m.get b := by
  induction m with
  | nil => by_cases h : b = a <;> simp [Memory.eraseCell, Memory.get, h]
  | cons c rest ih =>
    obtain ⟨k, w⟩ := c
    obtain ⟨hlt, hrest⟩ := List.pairwise_cons.mp hm
    unfold Memory.eraseCell
    split
    · subst_vars
      by_cases h : b = k
      · subst h
        simpa using Memory.get_of_lt rest b hlt
      · simp [Memory.get, h, Ne.symm h]
    · rename_i hne
      by_cases h : k = b
      · subst h; simp [Memory.get, Ne.symm hne]
      · simp [Memory.get, h, ih hrest]

/-- Read after write (20_memory.md R53, R61), in a canonical memory. -/
theorem Memory.get_put (m : Memory) (a b : Nat) (v : Byte) (hm : m.wf) :
    (m.put a v).get b = if b = a ∧ a < Config.memSize then v else m.get b := by
  unfold Memory.put
  split
  · rename_i ha
    split
    · rename_i hv
      rw [Memory.get_eraseCell m a b hm.1, ← hv]
      simp [ha]
    · rw [Memory.get_insertCell]
      simp [ha]
  · rename_i ha
    simp [ha]

/-! ### The canonical form -/

theorem Memory.mem_insertCell (m : Memory) (a : Nat) (v : Byte) :
    ∀ c ∈ m.insertCell a v, c = (a, v) ∨ c ∈ m := by
  induction m with
  | nil => simp [Memory.insertCell]
  | cons d rest ih =>
    obtain ⟨k, w⟩ := d
    intro c hc
    unfold Memory.insertCell at hc
    split at hc
    · simpa using hc
    · split at hc
      · rcases List.mem_cons.mp hc with h | h <;> simp [h]
      · rcases List.mem_cons.mp hc with h | h
        · simp [h]
        · rcases ih c h with h | h <;> simp [h]

theorem Memory.mem_eraseCell (m : Memory) (a : Nat) : ∀ c ∈ m.eraseCell a, c ∈ m := by
  induction m with
  | nil => simp [Memory.eraseCell]
  | cons d rest ih =>
    obtain ⟨k, w⟩ := d
    intro c hc
    unfold Memory.eraseCell at hc
    split at hc
    · simp [hc]
    · rcases List.mem_cons.mp hc with h | h
      · simp [h]
      · simp [ih c h]

theorem Memory.insertCell_sorted (m : Memory) (a : Nat) (v : Byte)
    (hm : m.Pairwise fun c d => c.1 < d.1) :
    (m.insertCell a v).Pairwise fun c d => c.1 < d.1 := by
  induction m with
  | nil => simp [Memory.insertCell]
  | cons d rest ih =>
    obtain ⟨k, w⟩ := d
    obtain ⟨hlt, hrest⟩ := List.pairwise_cons.mp hm
    unfold Memory.insertCell
    split
    · rename_i hak
      refine List.pairwise_cons.mpr ⟨fun c hc => ?_, hm⟩
      rcases List.mem_cons.mp hc with h | h
      · simpa [h] using hak
      · exact Nat.lt_trans hak (hlt c h)
    · split
      · subst_vars
        exact List.pairwise_cons.mpr ⟨fun c hc => hlt c hc, hrest⟩
      · refine List.pairwise_cons.mpr ⟨fun c hc => ?_, ih hrest⟩
        rcases Memory.mem_insertCell rest a v c hc with h | h
        · simp only [h]; omega
        · exact hlt c h

theorem Memory.eraseCell_sorted (m : Memory) (a : Nat)
    (hm : m.Pairwise fun c d => c.1 < d.1) :
    (m.eraseCell a).Pairwise fun c d => c.1 < d.1 := by
  induction m with
  | nil => simp [Memory.eraseCell]
  | cons d rest ih =>
    obtain ⟨k, w⟩ := d
    obtain ⟨hlt, hrest⟩ := List.pairwise_cons.mp hm
    unfold Memory.eraseCell
    split
    · exact hrest
    · exact List.pairwise_cons.mpr ⟨fun c hc => hlt c (Memory.mem_eraseCell rest a c hc), ih hrest⟩

/-- A write keeps the canonical form. -/
theorem Memory.put_wf (m : Memory) (a : Nat) (v : Byte) (hm : m.wf) : (m.put a v).wf := by
  unfold Memory.put
  split
  · rename_i ha
    split
    · exact ⟨Memory.eraseCell_sorted m a hm.1, fun c hc => hm.2 c (Memory.mem_eraseCell m a c hc)⟩
    · rename_i hv
      refine ⟨Memory.insertCell_sorted m a v hm.1, fun c hc => ?_⟩
      rcases Memory.mem_insertCell m a v c hc with h | h
      · simp only [h]; exact ⟨ha, hv⟩
      · exact hm.2 c h
  · exact hm

/-- A block of writes keeps the canonical form. -/
theorem Memory.putBlock_wf (bytes : List Byte) (base : Nat) (m : Memory) (hm : m.wf) :
    (m.putBlock base bytes).wf := by
  induction bytes generalizing base m with
  | nil => exact hm
  | cons b rest ih => exact ih (base + 1) (m.put base b) (Memory.put_wf m base b hm)

/-- Reset's memory lists nothing, and so is canonical. -/
@[simp] theorem Memory.nil_wf : Memory.wf [] := ⟨.nil, fun _ h => absurd h List.not_mem_nil⟩

/-- The reset memory has the canonical form. -/
theorem State.reset_mem_wf : State.reset.mem.wf := Memory.nil_wf

/-- A listed address reads as its cell. -/
theorem Memory.get_of_mem (m : Memory) (hm : m.Pairwise fun c d => c.1 < d.1) (c : Host.Cell)
    (hc : c ∈ m) : m.get c.1 = c.2 := by
  induction m with
  | nil => simp at hc
  | cons d rest ih =>
    obtain ⟨hlt, hrest⟩ := List.pairwise_cons.mp hm
    obtain ⟨k, w⟩ := d
    rcases List.mem_cons.mp hc with h | h
    · subst h; simp [Memory.get]
    · have hk : k ≠ c.1 := Nat.ne_of_lt (hlt c h)
      simp only [Memory.get, if_neg hk]
      exact ih hrest h

/-- An address that reads as something else than its reset byte is listed. -/
theorem Memory.mem_of_get_ne (m : Memory) (a : Nat) (h : m.get a ≠ memResetByte a) : (a, m.get a) ∈ m := by
  induction m with
  | nil => simp [Memory.get] at h
  | cons d rest ih =>
    obtain ⟨k, w⟩ := d
    by_cases hk : k = a
    · subst hk; simp [Memory.get]
    · simp only [Memory.get, if_neg hk] at h ⊢
      exact List.mem_cons_of_mem _ (ih h)

/-- Equal memories are equal data: two canonical memories that read alike everywhere are equal. -/
theorem Memory.ext_of_get (m n : Memory) (hm : m.wf) (hn : n.wf) (h : ∀ a, m.get a = n.get a) : m = n := by
  have sub : ∀ p q : Memory, p.wf → (∀ a, p.get a = q.get a) → ∀ c ∈ p, c ∈ q := by
    intro p q hp hpq c hc
    have e := Memory.get_of_mem p hp.1 c hc
    have hne := (hp.2 c hc).2
    have := Memory.mem_of_get_ne q c.1 (by rw [← hpq, e]; exact hne)
    rwa [← hpq, e] at this
  have perm : m.Perm n := by
    refine (List.perm_ext_iff_of_nodup ?_ ?_).mpr fun c => ⟨sub m n hm h c, sub n m hn (fun a => (h a).symm) c⟩
    · exact hm.1.imp fun {c d} (hlt : c.1 < d.1) (e : c = d) => by subst e; omega
    · exact hn.1.imp fun {c d} (hlt : c.1 < d.1) (e : c = d) => by subst e; omega
  refine perm.eq_of_pairwise ?_ hm.1 hn.1
  intro c d _ _ h1 h2
  exact absurd h2 (by omega)

/-! ### Blocks -/

/-- Reading after a block of writes in range: the block's bytes where they were stored, the old bytes elsewhere. -/
theorem Memory.get_putBlock (bytes : List Byte) (base : Nat) (m : Memory) (hm : m.wf)
    (hr : base + bytes.length ≤ Config.memSize) (a : Nat) :
    (m.putBlock base bytes).get a =
      if base ≤ a then bytes.getD (a - base) (m.get a) else m.get a := by
  induction bytes generalizing base m with
  | nil => simp [Memory.putBlock]
  | cons b rest ih =>
    have hr' : base + (rest.length + 1) ≤ Config.memSize := hr
    rw [Memory.putBlock, ih (base + 1) (m.put base b) (Memory.put_wf m base b hm) (by omega),
      Memory.get_put m base a b hm]
    by_cases h1 : base + 1 ≤ a
    · have e : a - base = (a - (base + 1)) + 1 := by omega
      have hne : a ≠ base := by omega
      have hle : base ≤ a := by omega
      simp only [h1, hle, hne, if_true, e, List.getD_cons_succ, false_and, if_false]
    · by_cases h2 : a = base
      · subst h2
        have : a < Config.memSize := by omega
        simp [this]
      · have hle : ¬ base ≤ a := by omega
        simp [h1, h2, hle]

@[simp] theorem Memory.getBlock_length (m : Memory) (base len : Nat) : (m.getBlock base len).length = len := by
  simp [Memory.getBlock]

/-- Byte `k` of a block. -/
theorem Memory.getBlock_get (m : Memory) (base len k : Nat) (h : k < len) :
    (m.getBlock base len)[k]? = some (m.get (base + k)) := by
  simp [Memory.getBlock, h]

/-- A block of bytes that read alike in two memories. -/
theorem Memory.getBlock_congr (m n : Memory) (base len : Nat)
    (h : ∀ k, k < len → m.get (base + k) = n.get (base + k)) : m.getBlock base len = n.getBlock base len := by
  apply List.map_congr_left
  intro k hk
  exact h k (List.mem_range.mp hk)

theorem lowestOutOfRange_none {base len : Nat} :
    lowestOutOfRange base len = none ↔ len = 0 ∨ base + len ≤ Config.memSize := by
  unfold lowestOutOfRange
  split <;> simp_all

/-- The bound by its numbers: the lowest address of 4096 or more in the block is `max(base, 4096)`. -/
theorem lowestOutOfRange_some {base len a : Nat} :
    lowestOutOfRange base len = some a ↔ (len ≠ 0 ∧ Config.memSize < base + len) ∧ a = max base Config.memSize := by
  unfold lowestOutOfRange
  split
  · rename_i h
    simp only [reduceCtorEq, false_iff, not_and]
    omega
  · rename_i h
    simp only [Option.some.injEq]
    constructor
    · intro e; exact ⟨by omega, e.symm⟩
    · intro e; exact e.2.symm

/-- Everything `readBlock` can answer. -/
theorem readBlock_cases (base len : Nat) (m : Memory) :
    (readBlock base len m = .ok (m.getBlock base len) ∧ (len = 0 ∨ base + len ≤ Config.memSize)) ∨
    (readBlock base len m = .error (max base Config.memSize) ∧ len ≠ 0 ∧ Config.memSize < base + len) := by
  unfold readBlock
  cases h : lowestOutOfRange base len with
  | none => exact .inl ⟨rfl, lowestOutOfRange_none.mp h⟩
  | some a =>
    obtain ⟨h1, rfl⟩ := lowestOutOfRange_some.mp h
    exact .inr ⟨rfl, h1.1, h1.2⟩

/-- Everything `writeBlock` can answer. -/
theorem writeBlock_cases (base : Nat) (bytes : List Byte) (m : Memory) :
    (writeBlock base bytes m = .ok (m.putBlock base bytes) ∧
      (bytes.length = 0 ∨ base + bytes.length ≤ Config.memSize)) ∨
    (writeBlock base bytes m = .error (max base Config.memSize) ∧ bytes.length ≠ 0 ∧
      Config.memSize < base + bytes.length) := by
  unfold writeBlock
  cases h : lowestOutOfRange base bytes.length with
  | none => exact .inl ⟨rfl, lowestOutOfRange_none.mp h⟩
  | some a =>
    obtain ⟨h1, rfl⟩ := lowestOutOfRange_some.mp h
    exact .inr ⟨rfl, h1.1, h1.2⟩

theorem readBlock_ok {base len : Nat} (m : Memory) (h : len = 0 ∨ base + len ≤ Config.memSize) :
    readBlock base len m = .ok (m.getBlock base len) := by
  simp [readBlock, lowestOutOfRange_none.mpr h]

theorem readBlock_error {base len : Nat} (m : Memory) (h : len ≠ 0) (h' : Config.memSize < base + len) :
    readBlock base len m = .error (max base Config.memSize) := by
  simp [readBlock, lowestOutOfRange_some.mpr ⟨⟨h, h'⟩, rfl⟩]

theorem writeBlock_ok {base : Nat} {bytes : List Byte} (m : Memory)
    (h : base + bytes.length ≤ Config.memSize) : writeBlock base bytes m = .ok (m.putBlock base bytes) := by
  simp [writeBlock, lowestOutOfRange_none.mpr (.inr h)]

theorem writeBlock_error {base : Nat} {bytes : List Byte} (m : Memory) (h : bytes.length ≠ 0)
    (h' : Config.memSize < base + bytes.length) :
    writeBlock base bytes m = .error (max base Config.memSize) := by
  simp [writeBlock, lowestOutOfRange_some.mpr ⟨⟨h, h'⟩, rfl⟩]

/-- The model's bound is the fault table's own search for the first address of 4096 or more. -/
theorem firstBadAddress_eq (base len : Nat) : firstBadAddress base len = lowestOutOfRange base len := by
  unfold firstBadAddress
  induction len with
  | zero => simp [lowestOutOfRange]
  | succ n ih =>
    rw [List.range_succ, List.map_append, List.find?_append, ih]
    cases h : lowestOutOfRange base n with
    | some a =>
      obtain ⟨h1, rfl⟩ := lowestOutOfRange_some.mp h
      exact (lowestOutOfRange_some.mpr ⟨by omega, rfl⟩).symm
    | none =>
      have h1 := lowestOutOfRange_none.mp h
      have hs : Config.memSize = 4096 := rfl
      by_cases hb : 4096 ≤ base + n
      · simp only [List.map_cons, List.map_nil, List.find?_cons, hb, decide_true, Option.none_or]
        refine (lowestOutOfRange_some.mpr ⟨by omega, by omega⟩).symm
      · simp only [List.map_cons, List.map_nil, List.find?_cons, hb, decide_false, List.find?_nil,
          Option.none_or]
        exact (lowestOutOfRange_none.mpr (by omega)).symm

/-! ### The memory a reset leaves -/

theorem fontMemory_wf (font : Vector Byte 80) : (fontMemory font).wf := Memory.putBlock_wf _ _ _ Memory.nil_wf

/-- Under any FONT: its bytes at 0x050 to 0x09F, and elsewhere what the documented reset leaves (70_reset_and_hazards.md
R231). -/
theorem fontMemory_get (font : Vector Byte 80) (a : Nat) :
    (fontMemory font).get a =
      if h : 0x050 ≤ a ∧ a < 0x0A0 then font[a - 0x050]'(by omega) else memResetByte a := by
  have hb : Config.fontBase = 0x050 := rfl
  rw [fontMemory, Memory.get_putBlock _ _ _ Memory.nil_wf (by simp [Config.fontBase, Config.memSize]), hb, Memory.get]
  by_cases h1 : 0x050 ≤ a
  · by_cases h2 : a < 0x0A0
    · simp [h1, h2, List.getD_eq_getElem?_getD, show a - 80 < 80 by omega]
    · simp [h1, h2, List.getD_eq_getElem?_getD, show 80 ≤ a - 80 by omega]
  · simp [h1]

@[simp] theorem fontMemory_documented : fontMemory documented.font = [] := by decide

@[simp] theorem State.resetUnder_documented : State.resetUnder documented = State.reset := by
  simp [State.resetUnder]; rfl

end Sys2Proof.Machine
end

