-- ==== Sys2Proof/Laws/Display.lean ====
section
/-! SUPPORT. The sprite engine said declaratively: which pixels a draw toggles, and when it collides. -/

namespace Sys2Proof.Machine

theorem Display.pixel_toggle (d : Display) (x px : Fin 64) (y py : Fin 32) :
    (d.toggle x y).pixel px py = if px = x ∧ py = y then !d.pixel px py else d.pixel px py := by
  unfold Display.toggle Display.pixel
  by_cases hy : py = y
  · subst hy
    by_cases hx : px = x
    · subst hx; simp
    · have : x.val ≠ px.val := fun e => hx (Fin.ext e.symm)
      simp [hx, this]
  · have : y.val ≠ py.val := fun e => hy (Fin.ext e.symm)
    simp [hy, this]

@[simp] theorem Display.pixel_blank (x : Fin 64) (y : Fin 32) : Display.blank.pixel x y = false := by
  simp [Display.blank, Display.pixel]

/-- Two displays with the same pixels are equal. -/
theorem Display.ext_pixel (d e : Display) (h : ∀ x y, d.pixel x y = e.pixel x y) : d = e := by
  apply Vector.ext
  intro y hy
  apply Vector.ext
  intro x hx
  exact h ⟨x, hx⟩ ⟨y, hy⟩

/-- `e` is `d` with the pixels of `S` toggled, and with a collision noted where one of them was on. -/
structure Paints (S : Fin 64 → Fin 32 → Prop) (d e : Canvas) : Prop where
  toggled : ∀ px py, S px py → e.disp.pixel px py = !d.disp.pixel px py
  kept : ∀ px py, ¬ S px py → e.disp.pixel px py = d.disp.pixel px py
  hit : e.hit = true ↔ d.hit = true ∨ ∃ px py, S px py ∧ d.disp.pixel px py = true

theorem Paints.refl (d : Canvas) : Paints (fun _ _ => False) d d :=
  ⟨fun _ _ h => h.elim, fun _ _ _ => rfl, by simp⟩

/-- Two paintings of different pixels, one after the other. -/
theorem Paints.trans {S T : Fin 64 → Fin 32 → Prop} {d e f : Canvas} (h₁ : Paints S d e) (h₂ : Paints T e f)
    (disj : ∀ px py, S px py → ¬ T px py) : Paints (fun px py => S px py ∨ T px py) d f where
  toggled px py h := by
    rcases h with h | h
    · rw [h₂.kept px py (disj px py h), h₁.toggled px py h]
    · rw [h₂.toggled px py h, h₁.kept px py fun hs => disj px py hs h]
  kept px py h := by
    rw [h₂.kept px py fun ht => h (.inr ht), h₁.kept px py fun hs => h (.inl hs)]
  hit := by
    rw [h₂.hit, h₁.hit, or_assoc]
    refine or_congr_right ?_
    constructor
    · rintro (⟨px, py, hs, hp⟩ | ⟨px, py, ht, hp⟩)
      · exact ⟨px, py, .inl hs, hp⟩
      · exact ⟨px, py, .inr ht, by rwa [h₁.kept px py fun hs => disj px py hs ht] at hp⟩
    · rintro ⟨px, py, hs | ht, hp⟩
      · exact .inl ⟨px, py, hs, hp⟩
      · exact .inr ⟨px, py, ht, by rwa [h₁.kept px py fun hs => disj px py hs ht]⟩

theorem Paints.congr {S T : Fin 64 → Fin 32 → Prop} {d e : Canvas} (h : Paints S d e)
    (hst : ∀ px py, S px py ↔ T px py) : Paints T d e := by
  have : S = T := by funext px py; exact propext (hst px py)
  exact this ▸ h

/-- Everything one sprite bit does: it toggles the pixel it falls on, if that is on the display. -/
theorem plotPixel_paints (X Y : Nat) (d : Canvas) :
    Paints (fun px py => px.val = X ∧ py.val = Y) d (plotPixel X Y d) := by
  unfold plotPixel
  split
  · rename_i hx
    split
    · rename_i hy
      have key : ∀ (px : Fin 64) (py : Fin 32),
          (px = ⟨X, hx⟩ ∧ py = ⟨Y, hy⟩) ↔ (px.val = X ∧ py.val = Y) := by
        intro px py; simp [Fin.ext_iff]
      refine ⟨fun px py h => ?_, fun px py h => ?_, ?_⟩
      · rw [Display.pixel_toggle, if_pos ((key px py).mpr h)]
      · rw [Display.pixel_toggle, if_neg fun e => h ((key px py).mp e)]
      · rw [Bool.or_eq_true]
        refine or_congr_right ⟨fun h => ⟨_, _, ⟨rfl, rfl⟩, h⟩, ?_⟩
        rintro ⟨px, py, hp, hon⟩
        obtain ⟨rfl, rfl⟩ := (key px py).mpr hp
        exact hon
    · rename_i hy
      exact (Paints.refl d).congr fun px py => ⟨False.elim, fun h => hy (h.2 ▸ py.isLt)⟩
  · rename_i hx
    exact (Paints.refl d).congr fun px py => ⟨False.elim, fun h => hx (h.1 ▸ px.isLt)⟩

/-- A row's set bits in a list of different columns. -/
theorem foldl_plot_paints (row : Byte) (x0 Y : Nat) (cs : List Nat) (hcs : cs.Nodup) (d : Canvas) :
    Paints (fun px py => ∃ c ∈ cs, spriteBit row c = true ∧ px.val = x0 + c ∧ py.val = Y) d
      (cs.foldl (fun d c => if spriteBit row c then plotPixel (x0 + c) Y d else d) d) := by
  induction cs generalizing d with
  | nil => exact (Paints.refl d).congr (by simp)
  | cons c rest ih =>
    obtain ⟨hc, hrest⟩ := List.nodup_cons.mp hcs
    have first : Paints (fun px py => spriteBit row c = true ∧ px.val = x0 + c ∧ py.val = Y) d
        (if spriteBit row c then plotPixel (x0 + c) Y d else d) := by
      by_cases hb : spriteBit row c = true
      · rw [if_pos hb]; exact (plotPixel_paints _ _ d).congr (by simp [hb])
      · rw [if_neg hb]; exact (Paints.refl d).congr (by simp [hb])
    rw [List.foldl_cons]
    refine (first.trans (ih hrest _) ?_).congr ?_
    · rintro px py ⟨_, h1, _⟩ ⟨c', hc', _, h2, _⟩
      have : c = c' := by omega
      exact hc (this ▸ hc')
    · intro px py; simp

/-- Everything one sprite row does (41_display.md R124). -/
theorem drawRow_paints (row : Byte) (x0 Y : Nat) (d : Canvas) :
    Paints (fun px py => ∃ c, c < 8 ∧ spriteBit row c = true ∧ px.val = x0 + c ∧ py.val = Y) d
      (drawRow row x0 Y d) :=
  (foldl_plot_paints row x0 Y (List.range 8) List.nodup_range d).congr (by simp)

/-- Everything a sprite does: exactly the pixels under its set bits are toggled (41_display.md R124), and it collides
where one of them was on (R126). -/
theorem drawRows_paints (x0 : Nat) (rows : List Byte) (y0 : Nat) (d : Canvas) :
    Paints (fun px py => ∃ r c row, rows[r]? = some row ∧ c < 8 ∧ spriteBit row c = true ∧
        px.val = x0 + c ∧ py.val = y0 + r) d (drawRows x0 rows y0 d) := by
  induction rows generalizing y0 d with
  | nil => exact (Paints.refl d).congr (by simp)
  | cons row rest ih =>
    refine ((drawRow_paints row x0 y0 d).trans (ih (y0 + 1) _) ?_).congr ?_
    · rintro px py ⟨c, _, _, _, h1⟩ ⟨r, c', row', _, _, _, _, h2⟩
      omega
    · intro px py
      constructor
      · rintro (⟨c, hc, hb, h1, h2⟩ | ⟨r, c, row', hr, hc, hb, h1, h2⟩)
        · exact ⟨0, c, row, by simp, hc, hb, h1, by omega⟩
        · exact ⟨r + 1, c, row', by simpa using hr, hc, hb, h1, by omega⟩
      · rintro ⟨r, c, row', hr, hc, hb, h1, h2⟩
        cases r with
        | zero =>
          have : row = row' := by simpa using hr
          subst this
          exact .inl ⟨c, hc, hb, h1, by omega⟩
        | succ r => exact .inr ⟨r, c, row', by simpa using hr, hc, hb, h1, by omega⟩

/-- The pixels of a `Dxyn` are those the spec's sprite covers. -/
theorem execDrw_paints (x y : RegIx) (n : Nibble) (s : State) :
    Paints (SpriteCovers s x y n) ⟨s.disp, false⟩
      (drawRows (originX (s.readV x)) (s.mem.getBlock s.i.toNat n.toNat) (originY (s.readV y)) ⟨s.disp, false⟩) := by
  refine (drawRows_paints _ _ _ _).congr fun px py => ?_
  constructor
  · rintro ⟨r, c, row, hr, hc, hb, h1, h2⟩
    have hn : r < n.toNat := by
      have := (List.getElem?_eq_some_iff.mp hr).1
      simpa using this
    rw [Memory.getBlock_get _ _ _ _ hn] at hr
    obtain rfl := Option.some.inj hr
    exact ⟨r, c, hn, hc, h2, h1, hb⟩
  · rintro ⟨r, c, hn, hc, h2, h1, hb⟩
    exact ⟨r, c, _, Memory.getBlock_get _ _ _ _ hn, hc, hb, h1, h2⟩

/-- Everything `Dxyn` does where its n bytes exist (41_display.md R124 to R129). -/
theorem execDrw_next (x y : RegIx) (n : Nibble) (s : State)
    (h : n.toNat = 0 ∨ s.i.toNat + n.toNat ≤ Config.memSize) :
    ∃ d : Canvas, Paints (SpriteCovers s x y n) ⟨s.disp, false⟩ d ∧
      execDrw x y n s = .next (((s.writeV vF (collisionFlag d.hit)).setDisp d.disp).setDirty true) :=
  ⟨_, execDrw_paints x y n s, by rw [execDrw, readBlock_ok s.mem h]⟩

end Sys2Proof.Machine
end

