-- ==== Sys2Proof/Laws/Keys.lean ====
section
/-! SUPPORT. The set of pressed keys and the choice among them. -/

namespace Sys2Proof.Machine

@[simp] theorem State.mem_pressedKeys (s : State) (k : Fin 16) : k ∈ s.pressedKeys ↔ s.keys[k.val] = true := by
  simp [State.pressedKeys]

theorem State.pressedKeys_eq_nil (s : State) : s.pressedKeys = [] ↔ ∀ k : Fin 16, s.keys[k.val] = false := by
  simp [State.pressedKeys, List.filter_eq_nil_iff]

/-- Everything the choice can answer, under either setting of KEY_SELECT: nothing where no key is pressed, else a
member (45_keys_timers.md R193, R198). -/
theorem chooseKey_cases (mode : Config.KeySelect) (pick : Nat) (pressed : List (Fin 16)) :
    (chooseKey mode pick pressed = none ∧ pressed = []) ∨
    ∃ k ∈ pressed, chooseKey mode pick pressed = some k := by
  cases pressed with
  | nil => cases mode <;> simp [chooseKey]
  | cons a rest =>
    right
    cases mode with
    | lowest => exact ⟨a, by simp, rfl⟩
    | any =>
      have h : pick % (a :: rest).length < (a :: rest).length := Nat.mod_lt _ (by simp)
      exact ⟨(a :: rest)[pick % (a :: rest).length], List.getElem_mem h, List.getElem?_eq_getElem h⟩

/-- Under KEY_SELECT = lowest the answer is the least pressed index (45_keys_timers.md R198). -/
theorem chooseKey_lowest (s : State) (pick : Nat) (k : Fin 16)
    (h : chooseKey .lowest pick s.pressedKeys = some k) : s.keys[k.val] = true ∧ ∀ j, s.keys[j.val] = true → k ≤ j := by
  have hs : s.pressedKeys.Pairwise (· < ·) := (List.pairwise_lt_finRange 16).filter _
  cases hp : s.pressedKeys with
  | nil => simp [chooseKey, hp] at h
  | cons a rest =>
    have e : a = k := by simpa [chooseKey, hp] using h
    subst e
    refine ⟨(s.mem_pressedKeys a).mp (by simp [hp]), fun j hj => ?_⟩
    have hj' := (s.mem_pressedKeys j).mpr hj
    rw [hp] at hj' hs
    rcases List.mem_cons.mp hj' with rfl | h'
    · exact Nat.le_refl _
    · exact Nat.le_of_lt (List.rel_of_pairwise_cons hs h')

/-- Everything the key index can answer (45_keys_timers.md R196). -/
theorem keyIndex_cases (b : Byte) :
    (keyIndex b = none ∧ 15 < b.toNat) ∨ ∃ h : b.toNat < 16, keyIndex b = some ⟨b.toNat, h⟩ := by
  by_cases h : b.toNat < 16
  · exact .inr ⟨h, by simp [keyIndex, h]⟩
  · exact .inl ⟨by simp [keyIndex, h], by omega⟩

end Sys2Proof.Machine
end

