-- ==== Sys2Proof/Laws/PerInstr.lean ====
section
/-! SUPPORT. Statements about every instruction, one lemma per constructor. -/

/-- EncodeRow: an instruction's word has the fixed bits of its own row of the opcode map (30_encoding.md R77). -/
def Sys2Proof.Laws.EncodeRow.Statement (i : Sys2Proof.Instr) : Prop :=
  i.row.selects (Sys2Proof.encode i)

namespace Sys2Proof.Laws.EncodeRow

theorem cls : Statement .cls := rfl

theorem ret : Statement .ret := rfl

theorem jp (nnn : Addr12) : Statement (.jp nnn) := by
  simp only [Statement, OpcodeRow.selects, Instr.row, encode, and_F000, fieldCode_formNNN]
  rfl

theorem call (nnn : Addr12) : Statement (.call nnn) := by
  simp only [Statement, OpcodeRow.selects, Instr.row, encode, and_F000, fieldCode_formNNN]
  rfl

theorem seImm (x : RegIx) (nn : Byte) : Statement (.seImm x nn) := by
  simp only [Statement, OpcodeRow.selects, Instr.row, encode, and_F000, fieldCode_formXNN]
  rfl

theorem sneImm (x : RegIx) (nn : Byte) : Statement (.sneImm x nn) := by
  simp only [Statement, OpcodeRow.selects, Instr.row, encode, and_F000, fieldCode_formXNN]
  rfl

theorem seReg (x y : RegIx) : Statement (.seReg x y) := by
  simp only [Statement, OpcodeRow.selects, Instr.row, encode, and_F00F, fieldCode_formXYN, fieldN_formXYN]
  rfl

theorem ldImm (x : RegIx) (nn : Byte) : Statement (.ldImm x nn) := by
  simp only [Statement, OpcodeRow.selects, Instr.row, encode, and_F000, fieldCode_formXNN]
  rfl

theorem addImm (x : RegIx) (nn : Byte) : Statement (.addImm x nn) := by
  simp only [Statement, OpcodeRow.selects, Instr.row, encode, and_F000, fieldCode_formXNN]
  rfl

theorem ldReg (x y : RegIx) : Statement (.ldReg x y) := by
  simp only [Statement, OpcodeRow.selects, Instr.row, encode, and_F00F, fieldCode_formXYN, fieldN_formXYN]
  rfl

theorem orReg (x y : RegIx) : Statement (.orReg x y) := by
  simp only [Statement, OpcodeRow.selects, Instr.row, encode, and_F00F, fieldCode_formXYN, fieldN_formXYN]
  rfl

theorem andReg (x y : RegIx) : Statement (.andReg x y) := by
  simp only [Statement, OpcodeRow.selects, Instr.row, encode, and_F00F, fieldCode_formXYN, fieldN_formXYN]
  rfl

theorem xorReg (x y : RegIx) : Statement (.xorReg x y) := by
  simp only [Statement, OpcodeRow.selects, Instr.row, encode, and_F00F, fieldCode_formXYN, fieldN_formXYN]
  rfl

theorem addReg (x y : RegIx) : Statement (.addReg x y) := by
  simp only [Statement, OpcodeRow.selects, Instr.row, encode, and_F00F, fieldCode_formXYN, fieldN_formXYN]
  rfl

theorem sub (x y : RegIx) : Statement (.sub x y) := by
  simp only [Statement, OpcodeRow.selects, Instr.row, encode, and_F00F, fieldCode_formXYN, fieldN_formXYN]
  rfl

theorem shr (x y : RegIx) : Statement (.shr x y) := by
  simp only [Statement, OpcodeRow.selects, Instr.row, encode, and_F00F, fieldCode_formXYN, fieldN_formXYN]
  rfl

theorem subn (x y : RegIx) : Statement (.subn x y) := by
  simp only [Statement, OpcodeRow.selects, Instr.row, encode, and_F00F, fieldCode_formXYN, fieldN_formXYN]
  rfl

theorem shl (x y : RegIx) : Statement (.shl x y) := by
  simp only [Statement, OpcodeRow.selects, Instr.row, encode, and_F00F, fieldCode_formXYN, fieldN_formXYN]
  rfl

theorem sneReg (x y : RegIx) : Statement (.sneReg x y) := by
  simp only [Statement, OpcodeRow.selects, Instr.row, encode, and_F00F, fieldCode_formXYN, fieldN_formXYN]
  rfl

theorem ldI (nnn : Addr12) : Statement (.ldI nnn) := by
  simp only [Statement, OpcodeRow.selects, Instr.row, encode, and_F000, fieldCode_formNNN]
  rfl

theorem jpV0 (nnn : Addr12) : Statement (.jpV0 nnn) := by
  simp only [Statement, OpcodeRow.selects, Instr.row, encode, and_F000, fieldCode_formNNN]
  rfl

theorem rnd (x : RegIx) (nn : Byte) : Statement (.rnd x nn) := by
  simp only [Statement, OpcodeRow.selects, Instr.row, encode, and_F000, fieldCode_formXNN]
  rfl

theorem drw (x y : RegIx) (n : Nibble) : Statement (.drw x y n) := by
  simp only [Statement, OpcodeRow.selects, Instr.row, encode, and_F000, fieldCode_formXYN]
  rfl

theorem skp (x : RegIx) : Statement (.skp x) := by
  simp only [Statement, OpcodeRow.selects, Instr.row, encode, and_F0FF, fieldCode_formXNN, fieldY_formXNN, fieldN_formXNN]
  rfl

theorem sknp (x : RegIx) : Statement (.sknp x) := by
  simp only [Statement, OpcodeRow.selects, Instr.row, encode, and_F0FF, fieldCode_formXNN, fieldY_formXNN, fieldN_formXNN]
  rfl

theorem ldVxDT (x : RegIx) : Statement (.ldVxDT x) := by
  simp only [Statement, OpcodeRow.selects, Instr.row, encode, and_F0FF, fieldCode_formXNN, fieldY_formXNN, fieldN_formXNN]
  rfl

theorem ldVxK (x : RegIx) : Statement (.ldVxK x) := by
  simp only [Statement, OpcodeRow.selects, Instr.row, encode, and_F0FF, fieldCode_formXNN, fieldY_formXNN, fieldN_formXNN]
  rfl

theorem ldDTVx (x : RegIx) : Statement (.ldDTVx x) := by
  simp only [Statement, OpcodeRow.selects, Instr.row, encode, and_F0FF, fieldCode_formXNN, fieldY_formXNN, fieldN_formXNN]
  rfl

theorem ldSTVx (x : RegIx) : Statement (.ldSTVx x) := by
  simp only [Statement, OpcodeRow.selects, Instr.row, encode, and_F0FF, fieldCode_formXNN, fieldY_formXNN, fieldN_formXNN]
  rfl

theorem addI (x : RegIx) : Statement (.addI x) := by
  simp only [Statement, OpcodeRow.selects, Instr.row, encode, and_F0FF, fieldCode_formXNN, fieldY_formXNN, fieldN_formXNN]
  rfl

theorem ldF (x : RegIx) : Statement (.ldF x) := by
  simp only [Statement, OpcodeRow.selects, Instr.row, encode, and_F0FF, fieldCode_formXNN, fieldY_formXNN, fieldN_formXNN]
  rfl

theorem ldB (x : RegIx) : Statement (.ldB x) := by
  simp only [Statement, OpcodeRow.selects, Instr.row, encode, and_F0FF, fieldCode_formXNN, fieldY_formXNN, fieldN_formXNN]
  rfl

theorem storeRegs (x : RegIx) : Statement (.storeRegs x) := by
  simp only [Statement, OpcodeRow.selects, Instr.row, encode, and_F0FF, fieldCode_formXNN, fieldY_formXNN, fieldN_formXNN]
  rfl

theorem loadRegs (x : RegIx) : Statement (.loadRegs x) := by
  simp only [Statement, OpcodeRow.selects, Instr.row, encode, and_F0FF, fieldCode_formXNN, fieldY_formXNN, fieldN_formXNN]
  rfl

theorem sys (nnn : Addr12) : Statement (.sys nnn) := by
  simp only [Statement, OpcodeRow.selects, Instr.row, encode, and_F000, fieldCode_formNNN]
  rfl

end Sys2Proof.Laws.EncodeRow
end

