-- ==== Sys2Proof/Laws/Stack.lean ====
section
/-! SUPPORT. The call stack: what push and pop can answer. -/

namespace Sys2Proof.Machine

/-- Everything a push can do (42_flow.md R132): at SP = 16 nothing; else one entry and SP change. -/
theorem State.push_cases (s : State) (a : Word) :
    (s.push a = none ∧ s.sp = 16) ∨
    ∃ (h : s.sp.val < 16) (t : State), s.push a = some t ∧ t = { s with
      stack := s.stack.set s.sp.val a h
      sp := ⟨s.sp.val + 1, by omega⟩ } := by
  by_cases h : s.sp.val < 16
  · exact .inr ⟨h, _, by simp [State.push, h], rfl⟩
  · refine .inl ⟨by simp [State.push, h], ?_⟩
    have := s.sp.isLt
    apply Fin.ext
    show s.sp.val = 16
    omega

/-- Everything a pop can do (42_flow.md R130): at SP = 0 nothing; else SP changes alone, and the entry below it is the
answer. -/
theorem State.pop_cases (s : State) :
    (s.pop = none ∧ s.sp = 0) ∨
    ∃ (h : 0 < s.sp.val) (t : State), s.pop = some (s.stack[s.sp.val - 1]'(by omega), t) ∧
      t = { s with sp := ⟨s.sp.val - 1, by omega⟩ } := by
  by_cases h : s.sp.val = 0
  · exact .inl ⟨by simp [State.pop, h], Fin.ext h⟩
  · exact .inr ⟨by omega, _, by simp [State.pop, h], rfl⟩

end Sys2Proof.Machine
end

