-- ==== Sys2Proof/Laws/Step.lean ====
section
/-! SUPPORT. What a cycle can do, what an instruction can do, and what each shared operation leaves alone. -/

namespace Sys2Proof.Machine

/-! ### The fetch and the cycle -/

theorem State.fetchWord_of_le (s : State) (h : s.pc.toNat ≤ 0xFFE) : s.fetchWord = some s.wordAtPc := by
  have : s.pc.toNat + 1 < Config.memSize := Nat.lt_of_le_of_lt (Nat.succ_le_succ h) (by decide)
  simp [State.fetchWord, State.wordAtPc, this]

theorem State.fetchWord_of_gt (s : State) (h : 0xFFE < s.pc.toNat) : s.fetchWord = none := by
  have : ¬ s.pc.toNat + 1 < Config.memSize := by
    have : Config.memSize = 4096 := rfl
    omega
  simp [State.fetchWord, this]

section
variable {execute : Instr → State → Host.Outcome State Fault Refusal} {s : State}

theorem cycleWith_faulted {r : FaultRecord} (h : s.run = .faulted r) :
    cycleWith execute s = .fault (.engineFaulted r) := by simp [cycleWith, h]

theorem cycleWith_fetchFault (h : s.run = .running) (hp : 0xFFE < s.pc.toNat) :
    cycleWith execute s = .next s.fetchFault := by simp [cycleWith, h, s.fetchWord_of_gt hp]

theorem cycleWith_exec {i : Instr} (h : s.run = .running) (hp : s.pc.toNat ≤ 0xFFE)
    (hi : decodeWord s.wordAtPc = .ok i) : cycleWith execute s = execute i s.advancePc := by
  simp [cycleWith, h, s.fetchWord_of_le hp, hi]

theorem cycleWith_unmatched {e : DecodeRefusal} (h : s.run = .running) (hp : s.pc.toNat ≤ 0xFFE)
    (hi : decodeWord s.wordAtPc = .error e) : cycleWith execute s = .next s.advancePc := by
  simp [cycleWith, h, s.fetchWord_of_le hp, hi, execUnmatched]

end

theorem step_faulted {s : State} {r : FaultRecord} (h : s.run = .faulted r) :
    step s = .fault (.engineFaulted r) := cycleWith_faulted h

theorem step_fetchFault {s : State} (h : s.run = .running) (hp : 0xFFE < s.pc.toNat) :
    step s = .next s.fetchFault := cycleWith_fetchFault h hp

theorem step_exec {s : State} {i : Instr} (h : s.run = .running) (hp : s.pc.toNat ≤ 0xFFE)
    (hi : decodeWord s.wordAtPc = .ok i) : step s = exec i s.advancePc := cycleWith_exec h hp hi

theorem step_unmatched {s : State} {e : DecodeRefusal} (h : s.run = .running) (hp : s.pc.toNat ≤ 0xFFE)
    (hi : decodeWord s.wordAtPc = .error e) : step s = .next s.advancePc := cycleWith_unmatched h hp hi

/-- Under a configuration every instruction but `Fx0A` is executed as in the documented one (45_keys_timers.md R198). -/
theorem execUnder_cases (p : Config.Parameters) (i : Instr) (s : State) :
    execUnder p i s = exec i s ∨ ∃ x, i = .ldVxK x ∧ execUnder p i s = execLdVxKUnder p.keySelect x s := by
  cases i with
  | ldVxK x => exact .inr ⟨x, rfl, rfl⟩
  | _ => exact .inl rfl

@[simp] theorem execUnder_documented : execUnder documented = exec := by
  funext i s; cases i <;> rfl

@[simp] theorem stepUnder_documented : stepUnder documented = step := by
  funext s; rw [stepUnder, execUnder_documented]; rfl

/-- Everything a Running engine's cycle can be (40_cycle.md R111). -/
theorem step_running_cases {s : State} (h : s.run = .running) :
    (0xFFE < s.pc.toNat ∧ step s = .next s.fetchFault) ∨
    (s.pc.toNat ≤ 0xFFE ∧ ∃ i, decodeWord s.wordAtPc = .ok i ∧ step s = exec i s.advancePc) ∨
    (s.pc.toNat ≤ 0xFFE ∧ ∃ e, decodeWord s.wordAtPc = .error e ∧ step s = .next s.advancePc) := by
  rcases Nat.lt_or_ge 0xFFE s.pc.toNat with hp | hp
  · exact .inl ⟨hp, step_fetchFault h hp⟩
  · cases hd : decodeWord s.wordAtPc with
    | ok i => exact .inr (.inl ⟨hp, i, rfl, step_exec h hp hd⟩)
    | error e => exact .inr (.inr ⟨hp, e, rfl, step_unmatched h hp hd⟩)

/-- Only a Running engine takes a step. -/
theorem step_next_running {s t : State} (h : step s = .next t) : s.run = .running := by
  cases hr : s.run with
  | running => rfl
  | faulted r => rw [step_faulted hr] at h; cases h

/-! ### Shared operations of the meanings -/

/-- Everything a store at I can answer (44_index_memory.md R173, R174), for a block that is not empty. -/
theorem storeAtI_cases (bytes : List Byte) (s : State) (hb : bytes.length ≠ 0) :
    (s.i.toNat + bytes.length ≤ Config.memSize ∧
      storeAtI bytes s = .next (s.setMem (s.mem.putBlock s.i.toNat bytes))) ∨
    (Config.memSize < s.i.toNat + bytes.length ∧
      storeAtI bytes s = raiseFault .memWriteOutOfRange (max s.i.toNat Config.memSize) s) := by
  rcases writeBlock_cases s.i.toNat bytes s.mem with ⟨h, hr⟩ | ⟨h, _, hr⟩
  · exact .inl ⟨hr.resolve_left hb, by simp [storeAtI, h]⟩
  · exact .inr ⟨hr, by simp [storeAtI, h]⟩

/-- Everything `Fx65` can answer (44_index_memory.md R175). -/
theorem execLoadRegs_cases (x : RegIx) (s : State) :
    (s.i.toNat + (x.toNat + 1) ≤ Config.memSize ∧
      execLoadRegs x s = .next (s.loadBlock (s.mem.getBlock s.i.toNat (x.toNat + 1)))) ∨
    (Config.memSize < s.i.toNat + (x.toNat + 1) ∧
      execLoadRegs x s = raiseFault .memReadOutOfRange (max s.i.toNat Config.memSize) s) := by
  rcases readBlock_cases s.i.toNat (x.toNat + 1) s.mem with ⟨h, hr⟩ | ⟨h, _, hr⟩
  · exact .inl ⟨hr.resolve_left (by omega), by simp [execLoadRegs, h]⟩
  · exact .inr ⟨hr, by simp [execLoadRegs, h]⟩

/-- Everything `Dxyn` can answer (41_display.md R124, R128). -/
theorem execDrw_cases (x y : RegIx) (n : Nibble) (s : State) :
    ((n.toNat = 0 ∨ s.i.toNat + n.toNat ≤ Config.memSize) ∧
      ∃ d : Canvas, Paints (SpriteCovers s x y n) ⟨s.disp, false⟩ d ∧
        execDrw x y n s = .next (((s.writeV vF (collisionFlag d.hit)).setDisp d.disp).setDirty true)) ∨
    ((n.toNat ≠ 0 ∧ Config.memSize < s.i.toNat + n.toNat) ∧
      execDrw x y n s = raiseFault .memReadOutOfRange (max s.i.toNat Config.memSize) s) := by
  rcases readBlock_cases s.i.toNat n.toNat s.mem with ⟨_, hr⟩ | ⟨h, hn, hr⟩
  · exact .inl ⟨hr, execDrw_next x y n s hr⟩
  · exact .inr ⟨⟨hn, hr⟩, by simp [execDrw, h]⟩

/-- Everything `2nnn` can answer (42_flow.md R132). -/
theorem execCall_cases (nnn : Addr12) (s : State) :
    (s.sp = 16 ∧ execCall nnn s = raiseFault .stackOverflow 16 s) ∨
    ∃ h : s.sp.val < 16, execCall nnn s = .next { s with
      stack := s.stack.set s.sp.val s.pc h, sp := ⟨s.sp.val + 1, by omega⟩, pc := addrOperand nnn } := by
  rcases s.push_cases s.pc with ⟨h, hs⟩ | ⟨hlt, t, h, rfl⟩
  · exact .inl ⟨hs, by simp [execCall, h]⟩
  · exact .inr ⟨hlt, by simp [execCall, h, State.setPc]⟩

/-- Everything `00EE` can answer (42_flow.md R130). -/
theorem execRet_cases (s : State) :
    (s.sp = 0 ∧ execRet s = raiseFault .stackUnderflow 0 s) ∨
    ∃ h : 0 < s.sp.val, execRet s = .next { s with
      sp := ⟨s.sp.val - 1, by omega⟩, pc := s.stack[s.sp.val - 1]'(by omega) } := by
  rcases s.pop_cases with ⟨h, hs⟩ | ⟨hlt, t, h, rfl⟩
  · exact .inl ⟨hs, by simp [execRet, h]⟩
  · exact .inr ⟨hlt, by simp [execRet, h, State.setPc]⟩

/-- Everything `Fx0A` can answer under a setting of KEY_SELECT (45_keys_timers.md R193, R198). -/
theorem execLdVxKUnder_cases (select : Config.KeySelect) (x : RegIx) (s : State) :
    ((∀ k : Fin 16, s.keys[k.val] = false) ∧ execLdVxKUnder select x s = .next s.rewindPc) ∨
    ∃ k : Fin 16, s.keys[k.val] = true ∧
      (select = .lowest → ∀ j : Fin 16, s.keys[j.val] = true → k ≤ j) ∧
      execLdVxKUnder select x s = .next (s.writeV x (BitVec.ofNat 8 k.val)).nextDraw := by
  rcases chooseKey_cases select (Config.keyPick s.draws) s.pressedKeys with ⟨h, hp⟩ | ⟨k, hk, h⟩
  · exact .inl ⟨s.pressedKeys_eq_nil.mp hp, by simp [execLdVxKUnder, h]⟩
  · refine .inr ⟨k, (s.mem_pressedKeys k).mp hk, ?_, by simp [execLdVxKUnder, h]⟩
    rintro rfl
    exact (chooseKey_lowest s _ k h).2

/-- Everything `Fx0A` can answer in the documented configuration (45_keys_timers.md R193). -/
theorem execLdVxK_cases (x : RegIx) (s : State) :
    ((∀ k : Fin 16, s.keys[k.val] = false) ∧ execLdVxK x s = .next s.rewindPc) ∨
    ∃ k : Fin 16, s.keys[k.val] = true ∧
      execLdVxK x s = .next (s.writeV x (BitVec.ofNat 8 k.val)).nextDraw :=
  (execLdVxKUnder_cases keySelect x s).imp id fun ⟨k, hk, _, h⟩ => ⟨k, hk, h⟩

/-! ### What an instruction can do -/

/-- Whatever the instruction, it goes on to a next state: either the fault table names a fault and this is its entry, or it
names none and `run` is as before (60_exceptions.md R202). -/
theorem exec_cases (i : Instr) (s : State) :
    (∃ c n, faultOf i s = some (c, n) ∧ exec i s = raiseFault c n s) ∨
    (faultOf i s = none ∧ ∃ t, exec i s = .next t ∧ t.run = s.run) := by
  cases i with
  | ret =>
    rcases execRet_cases s with ⟨hs, h⟩ | ⟨hs, h⟩
    · exact .inl ⟨_, _, by simp [faultOf, hs], h⟩
    · have : s.sp ≠ 0 := fun e => by simp [e] at hs
      exact .inr ⟨by simp [faultOf, this], _, h, rfl⟩
  | call nnn =>
    rcases execCall_cases nnn s with ⟨hs, h⟩ | ⟨hs, h⟩
    · exact .inl ⟨_, _, by simp [faultOf, hs], h⟩
    · have : s.sp ≠ 16 := fun e => by rw [e] at hs; exact absurd hs (by decide)
      exact .inr ⟨by simp [faultOf, this], _, h, rfl⟩
  | drw x y n =>
    rcases execDrw_cases x y n s with ⟨hr, d, _, h⟩ | ⟨hr, h⟩
    · exact .inr ⟨by simp [faultOf, firstBadAddress_eq, lowestOutOfRange_none.mpr hr], _, h, rfl⟩
    · exact .inl ⟨_, _, by simp [faultOf, firstBadAddress_eq, lowestOutOfRange_some.mpr ⟨hr, rfl⟩], h⟩
  | loadRegs x =>
    rcases execLoadRegs_cases x s with ⟨hr, h⟩ | ⟨hr, h⟩
    · exact .inr ⟨by simp [faultOf, firstBadAddress_eq, lowestOutOfRange_none.mpr (.inr hr)], _, h, rfl⟩
    · exact .inl ⟨_, _, by
        simp [faultOf, firstBadAddress_eq, lowestOutOfRange_some.mpr ⟨⟨Nat.succ_ne_zero _, hr⟩, rfl⟩], h⟩
  | storeRegs x =>
    rcases storeAtI_cases (s.regBlock x) s (by simp) with ⟨hr, h⟩ | ⟨hr, h⟩ <;> rw [State.regBlock_length] at hr
    · exact .inr ⟨by simp [faultOf, firstBadAddress_eq, lowestOutOfRange_none.mpr (.inr hr)], _, h, rfl⟩
    · exact .inl ⟨_, _, by
        simp [faultOf, firstBadAddress_eq, lowestOutOfRange_some.mpr ⟨⟨Nat.succ_ne_zero _, hr⟩, rfl⟩], h⟩
  | ldB x =>
    rcases storeAtI_cases (bcdDigits (s.readV x)) s (by simp [bcdDigits]) with ⟨hr, h⟩ | ⟨hr, h⟩ <;>
      simp only [bcdDigits, List.length_cons, List.length_nil] at hr
    · exact .inr ⟨by simp [faultOf, firstBadAddress_eq, lowestOutOfRange_none.mpr (.inr hr)], _, h, rfl⟩
    · exact .inl ⟨_, _, by
        simp [faultOf, firstBadAddress_eq, lowestOutOfRange_some.mpr ⟨⟨Nat.succ_ne_zero _, hr⟩, rfl⟩], h⟩
  | skp x =>
    rcases keyIndex_cases (s.readV x) with ⟨h, hx⟩ | ⟨hx, h⟩
    · exact .inl ⟨.keyIndexOutOfRange, (s.readV x).toNat, by simp [faultOf, hx], by simp [exec, execSkp, h]⟩
    · exact .inr ⟨by simp [faultOf, Nat.not_lt.mpr (Nat.le_of_lt_succ hx)], _, by simp [exec, execSkp, h]; rfl, by simp⟩
  | sknp x =>
    rcases keyIndex_cases (s.readV x) with ⟨h, hx⟩ | ⟨hx, h⟩
    · exact .inl ⟨.keyIndexOutOfRange, (s.readV x).toNat, by simp [faultOf, hx], by simp [exec, execSknp, h]⟩
    · exact .inr ⟨by simp [faultOf, Nat.not_lt.mpr (Nat.le_of_lt_succ hx)], _, by simp [exec, execSknp, h]; rfl, by simp⟩
  | ldVxK x =>
    rcases execLdVxK_cases x s with ⟨_, h⟩ | ⟨k, _, h⟩ <;> exact .inr ⟨rfl, _, h, rfl⟩
  | seImm x nn => exact .inr ⟨rfl, _, rfl, by simp⟩
  | sneImm x nn => exact .inr ⟨rfl, _, rfl, by simp⟩
  | seReg x y => exact .inr ⟨rfl, _, rfl, by simp⟩
  | sneReg x y => exact .inr ⟨rfl, _, rfl, by simp⟩
  | _ => exact .inr ⟨rfl, _, rfl, rfl⟩

/-- A fault of the instruction at pc, seen from before its fetch: only `run` has changed. -/
theorem exec_advancePc_of_faultOf {i : Instr} {s : State} {c : FaultCause} {n : Nat}
    (h : faultOf i s = some (c, n)) :
    exec i s.advancePc = .next (s.setRun (.faulted ⟨c, s.pc, n⟩)) := by
  have hf : faultOf i s.advancePc = faultOf i s := by cases i <;> rfl
  rcases exec_cases i s.advancePc with ⟨c', n', h', he⟩ | ⟨h', _⟩
  · rw [hf, h] at h'
    obtain ⟨rfl, rfl⟩ := Prod.mk.inj (Option.some.inj h')
    rw [he, raiseFault_advancePc]
  · rw [hf, h] at h'; cases h'

end Sys2Proof.Machine
end

