-- ==== Sys2Proof/Tests/Slice0.lean ====
section
/-! SUPPORT. Tests. Every expected result is a vector of 95_test_vectors.md, named in the test's docstring, or is worked out by
hand from the rule named there. The witnesses at the end show, for each statement with hypotheses, a state and operands that
meet them. -/

namespace Sys2Proof.Tests

open Sys2Proof Sys2Proof.Machine

/-! ### Helpers -/

/-- The reset state with some registers set. -/
def withRegs (regs : List (RegIx × Byte)) : State := regs.foldl (fun s p => s.writeV p.1 p.2) State.reset

/-- Bytes put in memory from an address on. -/
def withBytes (a : Nat) (bytes : List Byte) (s : State) : State := s.setMem (s.mem.putBlock a bytes)

/-- One key pressed and no other. -/
def withKey (k : Fin 16) (s : State) : State := s.setKeys (Vector.ofFn fun j => decide (j = k))

/-- One pixel toggled. -/
def withPixel (x : Fin 64) (y : Fin 32) (s : State) : State := s.setDisp (s.disp.toggle x y)

/-- What one reads of the state an outcome goes on to. -/
def seen {α : Type} (o : Host.Outcome State Fault Refusal) (f : State → α) : Option α :=
  match o with
  | .next t => some (f t)
  | _ => none

/-- One cycle with the word placed at pc, and what one reads then. -/
def cycle {α : Type} (w : Nat) (s : State) (f : State → α) : Option α := seen (step (s.withFetchWord 16 w)) f

/-- The fault record, if the state is Faulted. -/
def record (s : State) : Nat × Nat × Nat := s.runOutput

/-- The configurations that differ from the documented one in one parameter. -/
def ticking : Config.Parameters := { documented with timerTick := .external }
def lowestKey : Config.Parameters := { documented with keySelect := .lowest }
def otherFont : Config.Parameters := { documented with font := documented.font.set 79 0x7E#8 }

/-! ### WellFormed refuses an ill-formed term for each of its checks -/

theorem test_wellFormed_sys_is_not_cls : (Instr.sys 0x0E0#12).wellFormed = false := by decide
theorem test_wellFormed_sys_is_not_ret : (Instr.sys 0x0EE#12).wellFormed = false := by decide
theorem test_wellFormed_sys_neighbour : (Instr.sys 0x0E1#12).wellFormed = true := by decide

/-! ### Decoding: words written out nibble by nibble from the patterns of 30_encoding.md R77 -/

theorem test_decode_cls : decodeWord 0b0000000011100000#16 = .ok .cls := by decide
theorem test_decode_ret : decodeWord 0b0000000011101110#16 = .ok .ret := by decide
theorem test_decode_jp : decodeWord 0b0001001000110100#16 = .ok (.jp 0x234#12) := by decide
theorem test_decode_call : decodeWord 0b0010111111111110#16 = .ok (.call 0xFFE#12) := by decide
theorem test_decode_seImm : decodeWord 0b0011101101000010#16 = .ok (.seImm 0xB#4 0x42#8) := by decide
theorem test_decode_sneImm : decodeWord 0b0100000110000001#16 = .ok (.sneImm 0x1#4 0x81#8) := by decide
theorem test_decode_seReg : decodeWord 0b0101000100100000#16 = .ok (.seReg 0x1#4 0x2#4) := by decide
theorem test_decode_ldImm : decodeWord 0b0110101001000010#16 = .ok (.ldImm 0xA#4 0x42#8) := by decide
theorem test_decode_addImm : decodeWord 0b0111111100000001#16 = .ok (.addImm 0xF#4 0x01#8) := by decide
theorem test_decode_ldReg : decodeWord 0b1000001101000000#16 = .ok (.ldReg 0x3#4 0x4#4) := by decide
theorem test_decode_orReg : decodeWord 0b1000001101000001#16 = .ok (.orReg 0x3#4 0x4#4) := by decide
theorem test_decode_andReg : decodeWord 0b1000001101000010#16 = .ok (.andReg 0x3#4 0x4#4) := by decide
theorem test_decode_xorReg : decodeWord 0b1000001101000011#16 = .ok (.xorReg 0x3#4 0x4#4) := by decide
theorem test_decode_addReg : decodeWord 0b1000001101000100#16 = .ok (.addReg 0x3#4 0x4#4) := by decide
theorem test_decode_sub : decodeWord 0b1000001101000101#16 = .ok (.sub 0x3#4 0x4#4) := by decide
theorem test_decode_shr : decodeWord 0b1000001101000110#16 = .ok (.shr 0x3#4 0x4#4) := by decide
theorem test_decode_subn : decodeWord 0b1000001101000111#16 = .ok (.subn 0x3#4 0x4#4) := by decide
theorem test_decode_shl : decodeWord 0b1000001101001110#16 = .ok (.shl 0x3#4 0x4#4) := by decide
theorem test_decode_sneReg : decodeWord 0b1001000100100000#16 = .ok (.sneReg 0x1#4 0x2#4) := by decide
theorem test_decode_ldI : decodeWord 0b1010001100000000#16 = .ok (.ldI 0x300#12) := by decide
theorem test_decode_jpV0 : decodeWord 0b1011001000010000#16 = .ok (.jpV0 0x210#12) := by decide
theorem test_decode_rnd : decodeWord 0b1100010111110000#16 = .ok (.rnd 0x5#4 0xF0#8) := by decide
theorem test_decode_drw : decodeWord 0b1101000100100101#16 = .ok (.drw 0x1#4 0x2#4 0x5#4) := by decide
theorem test_decode_skp : decodeWord 0b1110000110011110#16 = .ok (.skp 0x1#4) := by decide
theorem test_decode_sknp : decodeWord 0b1110000110100001#16 = .ok (.sknp 0x1#4) := by decide
theorem test_decode_ldVxDT : decodeWord 0b1111001000000111#16 = .ok (.ldVxDT 0x2#4) := by decide
theorem test_decode_ldVxK : decodeWord 0b1111001100001010#16 = .ok (.ldVxK 0x3#4) := by decide
theorem test_decode_ldDTVx : decodeWord 0b1111000100010101#16 = .ok (.ldDTVx 0x1#4) := by decide
theorem test_decode_ldSTVx : decodeWord 0b1111001100011000#16 = .ok (.ldSTVx 0x3#4) := by decide
theorem test_decode_addI : decodeWord 0b1111000100011110#16 = .ok (.addI 0x1#4) := by decide
theorem test_decode_ldF : decodeWord 0b1111000000101001#16 = .ok (.ldF 0x0#4) := by decide
theorem test_decode_ldB : decodeWord 0b1111000000110011#16 = .ok (.ldB 0x0#4) := by decide
theorem test_decode_storeRegs : decodeWord 0b1111001001010101#16 = .ok (.storeRegs 0x2#4) := by decide
theorem test_decode_loadRegs : decodeWord 0b1111111101100101#16 = .ok (.loadRegs 0xF#4) := by decide
theorem test_decode_sys : decodeWord 0b0000000111100000#16 = .ok (.sys 0x1E0#12) := by decide

/-- Part 2, 2.2: the unmatched words outside family 0x0. -/
theorem test_decode_unmatched :
    ([0x5121#16, 0x512F#16, 0x9121#16, 0x9999#16, 0x8018#16, 0x801F#16, 0x800D#16, 0xE09F#16, 0xE0A2#16, 0xE000#16]
      ++ [0xF000#16, 0xF008#16, 0xF01F#16, 0xF066#16, 0xF0FF#16]).all
      (fun w => decodeWord w == .error (.unmatched w)) = true := by decide

/-- The host's numbering: a row's word in its two bytes, high byte first. -/
theorem test_decodeTableWord : decodeTableWord 16 0x6A42 = some (.ldImm 0xA#4 0x42#8) := by decide
theorem test_decodeTableWord_unmatched : decodeTableWord 16 0x5121 = none := by decide
theorem test_decode_truncated : decode [0x60#8] = .error .truncated := by decide

/-! ### The cycle -/

/-- V-CYC-1: an empty program's 0x0000. -/
theorem test_cycle_empty :
    seen (step State.reset) (fun t => decide (t = State.reset.setPc 0x202#16)) = some true := by decide
/-- V-CYC-3: a word at 0xFFE runs, and the next fetch faults with info 0x1000. -/
theorem test_cycle_last_word :
    cycle 0x602A (State.reset.setPc 0xFFE#16)
      (fun t => (t.readV 0#4, t.pc, seen (step t) record)) = some (0x2A#8, 0x1000#16, some (1, 0x1000, 0x1000)) := by
  decide
/-- V-CYC-4 -/
theorem test_cycle_fetch_fault :
    seen (step (State.reset.setPc 0xFFF#16)) record = some (1, 0xFFF, 0xFFF) := by decide
/-- V-CYC-5: an odd pc. -/
theorem test_cycle_odd_pc :
    cycle 0x6055 (State.reset.setPc 0x201#16) (fun t => (t.readV 0#4, t.pc)) = some (0x55#8, 0x203#16) := by decide
/-- V-CYC-6: the core never clears dirty. -/
theorem test_cycle_keeps_dirty :
    cycle 0x6001 (State.reset.setDirty true) State.displayChanged = some true := by decide
/-- S7: an unknown opcode. -/
theorem test_cycle_unknown :
    cycle 0x9999 (withRegs [(9#4, 7#8)]) (fun t => (t.pc, t.readV 9#4, t.i)) = some (0x202#16, 7#8, 0#16) := by decide
/-- 30_encoding.md R82: a no-op of family 0x0 (2.2, `01E0` is not a clear). -/
theorem test_cycle_sys :
    cycle 0x01E0 State.reset (fun t => (t.pc, t.dirty)) = some (0x202#16, false) := by decide

/-! ### Display -/

/-- V-DSP-1 -/
theorem test_cls :
    cycle 0x00E0 (withPixel 63 31 (withRegs [(15#4, 9#8)]))
      (fun t => (t.disp.pixel 63 31, t.dirty, t.readV vF)) = some (false, true, 9#8) := by decide
/-- V-DSP-13 and S5: clipping at both edges, and the origin's own pixel. -/
theorem test_drw_clips :
    cycle 0xD011 ((withBytes 0x300 [0xFF#8] (withRegs [(0#4, 0x3F#8), (1#4, 0x1F#8)])).setI 0x300#16)
      (fun t => (t.disp.pixel 63 31, t.disp.pixel 0 31, t.disp.pixel 63 0, t.readV vF)) =
      some (true, false, false, 0#8) := by decide
/-- V-DSP-5: a collision, and the next bit's pixel turned on. -/
theorem test_drw_collision :
    cycle 0xD011 (withPixel 0 0 ((withBytes 0x300 [0xC0#8] State.reset).setI 0x300#16))
      (fun t => (t.disp.pixel 0 0, t.disp.pixel 1 0, t.readV vF, t.dirty)) = some (false, true, 1#8, true) := by decide

/-! ### Control transfer and the stack -/

/-- V-FLW-3 -/
theorem test_jp : cycle 0x1208 State.reset State.pc = some 0x208#16 := by decide
/-- V-FLW-6: the last free entry. -/
theorem test_call :
    cycle 0x2400 { State.reset with sp := 15 } (fun t => (t.stack[15], t.sp, t.pc)) =
      some (0x202#16, 16, 0x400#16) := by decide
/-- V-FLW-7 -/
theorem test_call_overflow :
    cycle 0x2400 { State.reset with sp := 16 } (fun t => (record t, t.sp, t.pc)) =
      some ((4, 0x200, 16), 16, 0x200#16) := by decide
/-- V-FLW-1 -/
theorem test_ret :
    cycle 0x00EE { State.reset with sp := 1, stack := State.reset.stack.set 0 0x206#16 }
      (fun t => (t.sp, t.pc, t.stack[0])) = some (0, 0x206#16, 0x206#16) := by decide
/-- V-FLW-2 -/
theorem test_ret_underflow :
    cycle 0x00EE State.reset (fun t => (record t, t.pc)) = some ((5, 0x200, 0), 0x200#16) := by decide
/-- V-FLW-9 -/
theorem test_seImm :
    (cycle 0x3310 (withRegs [(3#4, 0x10#8)]) State.pc, cycle 0x3311 (withRegs [(3#4, 0x10#8)]) State.pc) =
      (some 0x204#16, some 0x202#16) := by decide
/-- V-FLW-10 -/
theorem test_sneImm :
    (cycle 0x4311 (withRegs [(3#4, 0x10#8)]) State.pc, cycle 0x4310 (withRegs [(3#4, 0x10#8)]) State.pc) =
      (some 0x204#16, some 0x202#16) := by decide
/-- V-FLW-11, V-FLW-12 -/
theorem test_seReg :
    (cycle 0x5120 (withRegs [(1#4, 7#8), (2#4, 7#8)]) State.pc,
      cycle 0x5120 (withRegs [(1#4, 7#8), (2#4, 8#8)]) State.pc) = (some 0x204#16, some 0x202#16) := by decide
/-- V-FLW-12, V-FLW-13 -/
theorem test_sneReg :
    (cycle 0x9120 (withRegs [(1#4, 7#8), (2#4, 8#8)]) State.pc, cycle 0x9110 State.reset State.pc) =
      (some 0x204#16, some 0x202#16) := by decide
/-- V-FLW-16, V-FLW-17: no wrap, and always V0. -/
theorem test_jpV0 :
    (cycle 0xBFFF (withRegs [(0#4, 0xFF#8)]) State.pc,
      cycle 0xB501 (withRegs [(0#4, 1#8), (5#4, 0x40#8)]) State.pc) = (some 0x10FE#16, some 0x502#16) := by decide

/-! ### Arithmetic and logic -/

/-- V-ALU-1 -/
theorem test_ldImm : cycle 0x6A42 State.reset (State.readV 0xA#4) = some 0x42#8 := by decide
/-- V-ALU-3: no carry flag. -/
theorem test_addImm :
    cycle 0x7001 (withRegs [(0#4, 0xFF#8), (15#4, 0x55#8)]) (fun t => (t.readV 0#4, t.readV vF)) =
      some (0#8, 0x55#8) := by decide
/-- V-ALU-5 -/
theorem test_ldReg : cycle 0x8010 (withRegs [(1#4, 0x33#8)]) (State.readV 0#4) = some 0x33#8 := by decide
/-- V-ALU-6 -/
theorem test_orReg :
    cycle 0x8011 (withRegs [(0#4, 0x0F#8), (1#4, 0xF0#8), (15#4, 7#8)]) (fun t => (t.readV 0#4, t.readV vF)) =
      some (0xFF#8, 7#8) := by decide
/-- V-ALU-7 -/
theorem test_andReg :
    cycle 0x8012 (withRegs [(0#4, 0x3C#8), (1#4, 0x0F#8), (15#4, 7#8)]) (fun t => (t.readV 0#4, t.readV vF)) =
      some (0x0C#8, 7#8) := by decide
/-- V-ALU-8 -/
theorem test_xorReg :
    cycle 0x8013 (withRegs [(0#4, 0xFF#8), (1#4, 0x0F#8)]) (State.readV 0#4) = some 0xF0#8 := by decide
/-- S1 -/
theorem test_addReg :
    cycle 0x8014 (withRegs [(0#4, 0xC8#8), (1#4, 0x64#8)]) (fun t => (t.readV 0#4, t.readV vF)) =
      some (0x2C#8, 1#8) := by decide
/-- V-ALU-12: the carry overwrites the sum in VF. -/
theorem test_addReg_vF :
    cycle 0x8F14 (withRegs [(15#4, 0xFF#8), (1#4, 2#8)]) (State.readV vF) = some 1#8 := by decide
/-- S2 -/
theorem test_sub :
    cycle 0x8015 (withRegs [(0#4, 3#8), (1#4, 5#8)]) (fun t => (t.readV 0#4, t.readV vF)) = some (0xFE#8, 0#8) := by
  decide
/-- V-ALU-15, V-ALU-16: the flag first, then the difference. -/
theorem test_sub_vF :
    (cycle 0x8F15 (withRegs [(15#4, 0x10#8), (1#4, 3#8)]) (State.readV vF),
      cycle 0x81F5 (withRegs [(1#4, 0x10#8), (15#4, 0x20#8)]) (State.readV 1#4)) = (some 0xFE#8, some 0x10#8) := by
  decide
/-- V-ALU-21 -/
theorem test_shr :
    cycle 0x8016 (withRegs [(0#4, 0xFF#8)]) (fun t => (t.readV 0#4, t.readV vF)) = some (0x7F#8, 1#8) := by decide
/-- V-ALU-22 -/
theorem test_shr_vF : cycle 0x8F06 (withRegs [(15#4, 3#8)]) (State.readV vF) = some 0#8 := by decide
/-- V-ALU-24 -/
theorem test_subn :
    cycle 0x8017 (withRegs [(0#4, 5#8), (1#4, 3#8)]) (fun t => (t.readV 0#4, t.readV vF)) = some (0xFE#8, 0#8) := by
  decide
/-- V-ALU-26, V-ALU-27 -/
theorem test_subn_vF :
    (cycle 0x8F07 (withRegs [(15#4, 5#8), (0#4, 3#8)]) (State.readV vF),
      cycle 0x80F7 (withRegs [(0#4, 3#8), (15#4, 5#8)]) (fun t => (t.readV 0#4, t.readV vF))) =
      (some 3#8, some (0xFE#8, 1#8)) := by decide
/-- V-ALU-29, V-ALU-30: bit 0, not bit 7. -/
theorem test_shl :
    (cycle 0x800E (withRegs [(0#4, 0x81#8)]) (fun t => (t.readV 0#4, t.readV vF)),
      cycle 0x800E (withRegs [(0#4, 0x80#8)]) (fun t => (t.readV 0#4, t.readV vF))) =
      (some (2#8, 1#8), some (0#8, 0#8)) := by decide
/-- V-ALU-32 -/
theorem test_shl_vF : cycle 0x8F0E (withRegs [(15#4, 3#8)]) (State.readV vF) = some 2#8 := by decide
/-- V-ALU-36, whatever the draw. -/
theorem test_rnd : cycle 0xC000 (withRegs [(0#4, 9#8)]) (fun t => (t.pc, t.draws)) = some (0x202#16, 1) := by decide

/-! ### The index register and memory transfers -/

/-- V-IDX-1 -/
theorem test_ldI : cycle 0xA300 State.reset State.i = some 0x300#16 := by decide
/-- V-IDX-3, V-IDX-5: no 12-bit mask, a 16-bit wrap, VF untouched. -/
theorem test_addI :
    (cycle 0xF01E ((withRegs [(0#4, 1#8), (15#4, 0x33#8)]).setI 0x0FFF#16) (fun t => (t.i, t.readV vF)),
      cycle 0xF01E ((withRegs [(0#4, 0xFF#8)]).setI 0xFFF0#16) State.i) =
      (some (0x1000#16, 0x33#8), some 0x00EF#16) := by decide
/-- V-IDX-6, V-IDX-7 -/
theorem test_ldF :
    (cycle 0xF029 (withRegs [(0#4, 0x0F#8)]) State.i, cycle 0xF029 (withRegs [(0#4, 0xFF#8)]) State.i) =
      (some 0x09B#16, some 0x54B#16) := by decide
/-- S9 -/
theorem test_ldB :
    cycle 0xF033 ((withRegs [(0#4, 0xFF#8)]).setI 0x300#16) (fun t => (t.mem.getBlock 0x300 3, t.i)) =
      some ([2#8, 5#8, 5#8], 0x300#16) := by decide
/-- V-IDX-10, V-IDX-11 -/
theorem test_ldB_fault :
    (cycle 0xF033 ((withBytes 0xFFE [0xAA#8, 0xBB#8] State.reset).setI 0xFFE#16)
        (fun t => (record t, t.mem.getBlock 0xFFE 2)),
      cycle 0xF033 (State.reset.setI 0xFFFF#16) record) =
      (some ((3, 0x200, 0x1000), [0xAA#8, 0xBB#8]), some (3, 0x200, 0xFFFF)) := by decide
/-- V-IDX-12 -/
theorem test_storeRegs :
    cycle 0xF255 ((withRegs [(0#4, 2#8), (1#4, 7#8), (2#4, 7#8)]).setI 0x407#16)
      (fun t => (t.mem.getBlock 0x407 4, t.i)) = some ([2#8, 7#8, 7#8, 0#8], 0x407#16) := by decide
/-- V-IDX-14 -/
theorem test_storeRegs_fault :
    cycle 0xFF55 ((withRegs [(0#4, 2#8)]).setI 0xFF1#16) (fun t => (record t, t.mem.get 0xFF1)) =
      some ((3, 0x200, 0x1000), 0#8) := by decide
/-- V-IDX-16 -/
theorem test_loadRegs :
    cycle 0xF265 ((withBytes 0x300 [2#8, 5#8, 6#8, 9#8] (withRegs [(3#4, 0x44#8)])).setI 0x300#16)
      (fun t => (t.readV 0#4, t.readV 1#4, t.readV 2#4, t.readV 3#4)) = some (2#8, 5#8, 6#8, 0x44#8) := by decide
/-- V-IDX-18 -/
theorem test_loadRegs_fault :
    cycle 0xF065 ((withRegs [(0#4, 1#8)]).setI 0x1000#16) (fun t => (record t, t.readV 0#4)) =
      some ((2, 0x200, 0x1000), 1#8) := by decide

/-! ### Keys and timers -/

/-- V-KEY-1, V-KEY-2 -/
theorem test_skp :
    (cycle 0xE19E (withKey 7 (withRegs [(1#4, 7#8)])) State.pc, cycle 0xE19E (withRegs [(1#4, 7#8)]) State.pc) =
      (some 0x204#16, some 0x202#16) := by decide
/-- V-KEY-5 -/
theorem test_skp_fault :
    cycle 0xE19E (withKey 0 (withRegs [(1#4, 0x10#8)])) (fun t => (record t, t.pc)) =
      some ((6, 0x200, 0x10), 0x200#16) := by decide
/-- V-KEY-3, V-KEY-4 -/
theorem test_sknp :
    (cycle 0xE1A1 (withRegs [(1#4, 7#8)]) State.pc, cycle 0xE1A1 (withKey 7 (withRegs [(1#4, 7#8)])) State.pc) =
      (some 0x204#16, some 0x202#16) := by decide
/-- V-KEY-6 -/
theorem test_sknp_fault :
    cycle 0xE1A1 (withRegs [(1#4, 0xFF#8)]) record = some (6, 0x200, 0xFF) := by decide
/-- V-KEY-8 -/
theorem test_ldVxDT : cycle 0xF207 (State.reset.setDt 7#8) (State.readV 2#4) = some 7#8 := by decide
/-- V-KEY-10 -/
theorem test_ldVxK_waits :
    cycle 0xF10A State.reset (fun t => (t.pc, t.readV 1#4, t.draws)) = some (0x200#16, 0#8, 0) := by decide
/-- V-KEY-11, V-KEY-12: one key is the choice, whatever the free value; the least of two under `lowest`. -/
theorem test_chooseKey (pick : Nat) :
    chooseKey .any pick [7] = some 7 ∧ chooseKey .lowest pick [3, 9] = some 3 := by
  simp [chooseKey, Nat.mod_one]
/-- V-KEY-12: keys 3 and 9 under KEY_SELECT = lowest, a whole cycle. -/
theorem test_ldVxK_lowest :
    seen (stepUnder lowestKey (((withKey 9 State.reset).setKeys ((withKey 9 State.reset).keys.set 3 true)).withFetchWord
      16 0xF10A)) (fun t => (t.readV 1#4, t.pc)) = some (3#8, 0x202#16) := by decide
/-- V-KEY-14 -/
theorem test_ldDTVx :
    cycle 0xF115 (withRegs [(1#4, 7#8)]) (fun t => (t.dt, t.st)) = some (7#8, 0#8) := by decide
/-- V-KEY-15 -/
theorem test_ldSTVx :
    cycle 0xF318 (withRegs [(3#4, 0x3C#8)]) (fun t => (t.dt, t.st)) = some (0#8, 0x3C#8) := by decide

/-! ### The host's actions -/

/-- V-HST-2 -/
theorem test_load :
    seen (hostAct (.load [0xA3#8, 0x00#8, 0x60#8]) State.reset) (fun t => t.mem.getBlock 0x200 4) =
      some [0xA3#8, 0x00#8, 0x60#8, 0x00#8] := by decide
/-- 70_reset_and_hazards.md R231 with another table for FONT, whose last byte alone is not the default's. -/
theorem test_reset_other_font : (State.reset.resetAgain otherFont).mem = [(0x09F, 0x7E#8)] := by decide
/-- V-HST-3, V-HST-4 -/
theorem test_timerTick :
    (seen (hostActUnder ticking .timerTick ((State.reset.setDt 1#8).setSt 0#8)) (fun t => (t.dt, t.st)),
      seen (hostActUnder ticking .timerTick ((State.reset.setDt 0x3C#8).setSt 2#8)) (fun t => (t.dt, t.st))) =
      (some (0#8, 0#8), some (0x3B#8, 1#8)) := by decide

/-! ### Witnesses: a state and operands that meet a statement's hypotheses, each clause at a boundary value -/

theorem test_witness_DecodeOfEncodeIsTheInstruction :
    (Instr.sys 0x0E1#12).wellFormed = true ∧ (Instr.shl 0xF#4 0xF#4).wellFormed = true := by decide

theorem test_witness_EncodeOfDecodeIsTheWord :
    decodeWord 0x0000#16 = .ok (.sys 0x000#12) ∧ decodeWord 0xFF65#16 = .ok (.loadRegs 0xF#4) := by decide

theorem test_witness_DecoderFollowsTheOpcodeMap :
    decodeWord 0x1FFF#16 = .ok (.jp 0xFFF#12) ∧
    (Instr.row (.shl 0 0) ∈ opcodeMap ∧ (Instr.row (.shl 0 0)).selects 0x8FFE#16) ∧
    ((∀ r ∈ opcodeMap, ¬ r.selects 0x0FFF#16) ∧ fieldCode 0x0FFF#16 = 0x0#4) ∧
    ((∀ r ∈ opcodeMap, ¬ r.selects 0x5001#16) ∧ fieldCode 0x5001#16 ≠ 0x0#4) := by decide

/-- The reset state with `602A` at the last address a fetch reads, and pc there. -/
def lastWord : State := (State.reset.setPc 0xFFE#16).withFetchWord 16 0x602A

theorem test_witness_StepRunsTheDecodedInstruction :
    lastWord.run = .running ∧ lastWord.pc.toNat ≤ 0xFFE ∧
    decodeWord (lastWord.mem.get lastWord.pc.toNat ++ lastWord.mem.get (lastWord.pc.toNat + 1)) =
      .ok (.ldImm 0#4 0x2A#8) ∧ (∀ x, Instr.ldImm 0#4 0x2A#8 ≠ .ldVxK x) ∧ documented = documented := by decide

theorem test_witness_FetchBeyondMemoryFaults :
    (State.reset.setPc 0xFFF#16).run = .running ∧ 0xFFE < (State.reset.setPc 0xFFF#16).pc.toNat := by decide

/-- The reset state with `801F` at the last address a fetch reads, and pc there. -/
def lastWordUnmatched : State := (State.reset.setPc 0xFFE#16).withFetchWord 16 0x801F

theorem test_witness_UnmatchedWordOnlyAdvancesPc :
    (fieldCode 0x801F#16 = 0x8#4 ∧
      fieldN 0x801F#16 ∈ [0x8#4, 0x9#4, 0xA#4, 0xB#4, 0xC#4, 0xD#4, 0xF#4]) ∧
    lastWordUnmatched.run = .running ∧ lastWordUnmatched.pc.toNat ≤ 0xFFE ∧ UnmatchedWord 0x801F#16 ∧
    lastWordUnmatched.mem.get lastWordUnmatched.pc.toNat ++
      lastWordUnmatched.mem.get (lastWordUnmatched.pc.toNat + 1) = 0x801F#16 := by decide

theorem test_witness_SysRowIsANoOp : 0x0E1#12 ≠ 0x0E0#12 ∧ 0x0E1#12 ≠ 0x0EE#12 := by decide

theorem test_witness_PlacedWordIsRunNext :
    (State.reset.setPc 0xFFE#16).mem.wf ∧ (State.reset.setPc 0xFFE#16).run = .running ∧
    (State.reset.setPc 0xFFE#16).pc.toNat ≤ 0xFFE ∧ 0xFF65 < 65536 ∧
    decodeTableWord 16 0xFF65 = some (.loadRegs 0xF#4) := by decide

/-- A state that a fetch fault has been taken in. -/
def faultedState : State := (State.reset.setPc 0xFFF#16).setRun (.faulted ⟨.fetchOutOfRange, 0xFFF#16, 0xFFF⟩)

theorem test_witness_FaultedEngineTakesNoStep :
    faultedState.run = .faulted ⟨.fetchOutOfRange, 0xFFF#16, 0xFFF⟩ := by decide

theorem test_witness_FaultIsPrecise :
    (State.reset.setPc 0xFFF#16).run = .running ∧
    seen (step (State.reset.setPc 0xFFF#16)) (fun t => decide (t = faultedState)) = some true ∧
    faultedState.run ≠ .running := by decide

/-- One state for each cause of the fault table, and two with none. -/
theorem test_witness_FaultsAreExactlyThoseOfTheTable :
    (State.reset.setPc 0xFFF#16).cycleFault = some (.fetchOutOfRange, 0xFFF) ∧
    ((State.reset.setI 0xFFF#16).withFetchWord 16 0xD002).cycleFault = some (.memReadOutOfRange, 0x1000) ∧
    ((State.reset.setI 0xFFE#16).withFetchWord 16 0xF033).cycleFault = some (.memWriteOutOfRange, 0x1000) ∧
    ({ State.reset with sp := 16 }.withFetchWord 16 0x2400).cycleFault = some (.stackOverflow, 16) ∧
    (State.reset.withFetchWord 16 0x00EE).cycleFault = some (.stackUnderflow, 0) ∧
    ((withRegs [(0#4, 16#8)]).withFetchWord 16 0xE09E).cycleFault = some (.keyIndexOutOfRange, 16) ∧
    ((withRegs [(0#4, 15#8)]).withFetchWord 16 0xE09E).cycleFault = none ∧
    lastWord.cycleFault = none ∧ lastWord.run = .running := by decide

theorem test_witness_LoaderPlacesItsImage :
    State.reset.mem.wf ∧ (List.replicate 3584 0#8).length ≤ 3584 ∧
    seen (hostAct (.load [0x12#8]) State.reset) (fun t => t.mem.get 0x200) = some 0x12#8 ∧
    3584 < (List.replicate 3585 0#8).length := by
  refine ⟨by decide, Nat.le_of_eq List.length_replicate, by decide, ?_⟩
  rw [List.length_replicate]; decide

theorem test_witness_HostActionsWriteOnlyTheirOwnPart : lastWord.mem.wf := by decide

theorem test_witness_JumpSetsThePc : 0xFFF#12 = 0xFFF#12 ∧ State.reset.run = .running := by decide

theorem test_witness_CallPushesTheReturnAddress :
    State.reset.sp.val = (0 : Fin 16).val ∧ ({ State.reset with sp := 15 } : State).sp.val = (15 : Fin 16).val := by
  decide

theorem test_witness_ReturnPopsTheReturnAddress :
    ({ State.reset with sp := 1 } : State).sp.val = (0 : Fin 16).val + 1 ∧
    ({ State.reset with sp := 16 } : State).sp.val = (15 : Fin 16).val + 1 := by decide

theorem test_witness_StackFaultsAtBothEnds :
    ({ State.reset with sp := 16 } : State).sp = 16 ∧ State.reset.sp = 0 := by decide

/-- A state with one free entry left on the stack. -/
def lastCall : State := { State.reset with sp := 15 }

/-- What `2400` leads to from there. -/
def afterLastCall : State :=
  { State.reset with stack := State.reset.stack.set 15 0x200#16, sp := 16, pc := 0x400#16 }

/-- A state before the return whose other stack entries are not the call's. -/
def beforeReturn : State :=
  { afterLastCall with stack := (Vector.replicate 16 0xABC#16).set 15 0x200#16, pc := 0x500#16 }

theorem test_witness_CallThenReturnRestoresPcAndSp :
    lastCall.sp ≠ 16 ∧ exec (.call 0x400#12) lastCall = .next afterLastCall ∧
    beforeReturn.sp = afterLastCall.sp ∧
    (∀ j : Fin 16, j.val = lastCall.sp.val → beforeReturn.stack[j.val] = afterLastCall.stack[j.val]) ∧
    beforeReturn.stack[0] ≠ afterLastCall.stack[0] := ⟨by decide, rfl, by decide, by decide, by decide⟩

theorem test_witness_RegisterSkips : 0xF#4 ≠ 0x0#4 ∧ 0x1#4 ≠ 0x0#4 := by decide

/-- The clauses of `8xy4`, `8xy5`, `8xy6`, `8xy7` and `8xyE` on x and y. -/
theorem test_witness_AddRegistersSetsCarry : (0xE#4 ≠ vF) ∧ (0xF#4 = vF) := by decide
theorem test_witness_SubWritesFlagThenDifference :
    (0x0#4 ≠ vF ∧ 0xE#4 ≠ vF) ∧ (0xF#4 = vF ∧ 0xE#4 ≠ vF) ∧ (0xE#4 ≠ vF ∧ 0xF#4 = vF) ∧
    (0xF#4 = vF ∧ 0xF#4 = vF) := by decide
theorem test_witness_SubnWritesFlagThenDifference :
    (0x0#4 ≠ vF ∧ 0xE#4 ≠ vF) ∧ (0xF#4 = vF ∧ 0xE#4 ≠ vF) ∧ (0xE#4 ≠ vF ∧ 0xF#4 = vF) ∧
    (0xF#4 = vF ∧ 0xF#4 = vF) := by decide
theorem test_witness_ShiftRightHalvesVx : (0xE#4 ≠ vF) ∧ (0xF#4 = vF) := by decide
theorem test_witness_ShiftLeftTakesBitZero : (0xE#4 ≠ vF) ∧ (0xF#4 = vF) := by decide
theorem test_witness_RandomByteIsMasked : (0x00#8 = 0x00#8) ∧ (0xFF#8 = 0xFF#8) := by decide

theorem test_witness_BcdStoresTheDecimalDigits :
    State.reset.mem.wf ∧ (State.reset.setI 0xFFD#16).i.toNat + 2 < 4096 := by decide

theorem test_witness_StoreRegistersWritesTheBlock :
    State.reset.mem.wf ∧ (State.reset.setI 0xFF0#16).i.toNat + (0xF#4).toNat < 4096 ∧
    (0xF#4).toNat ≤ (0xF#4).toNat := by decide

theorem test_witness_LoadRegistersReadsTheBlock :
    (State.reset.setI 0xFF0#16).i.toNat + (0xF#4).toNat < 4096 ∧ (0xF#4).toNat ≤ (0xF#4).toNat := by decide

theorem test_witness_BlockTransfersFaultBeyondMemory :
    4096 ≤ (State.reset.setI 0xFFE#16).i.toNat + 2 ∧
    4096 ≤ (State.reset.setI 0xFF1#16).i.toNat + (0xF#4).toNat ∧
    4096 ≤ (State.reset.setI 0x1000#16).i.toNat + (0x0#4).toNat := by decide

/-- V0 = 0x12 and V1 = 0x0A, to be stored at I = 0xFFE. -/
def storing : State := (withRegs [(0#4, 0x12#8), (1#4, 0x0A#8)]).setI 0xFFE#16

theorem test_witness_StoredRegistersLoadBack :
    storing.mem.wf ∧ storing.i.toNat + (0x1#4).toNat < 4096 ∧
    exec (.storeRegs 0x1#4) storing = .next (storing.setMem [(0xFFE, 0x12#8), (0xFFF, 0x0A#8)]) :=
  ⟨by decide, by decide, rfl⟩

theorem test_witness_StoredBytesAreFetched :
    storing.mem.wf ∧ storing.i.toNat + (0x1#4).toNat < 4096 ∧ (0x0#4).toNat < (0x1#4).toNat ∧
    exec (.storeRegs 0x1#4) storing = .next (storing.setMem [(0xFFE, 0x12#8), (0xFFF, 0x0A#8)]) :=
  ⟨by decide, by decide, by decide, rfl⟩

/-- A sprite row 0x80 in the last byte of memory, drawn at the last pixel. -/
def drawing : State :=
  (withBytes 0xFFF [0x80#8] (withRegs [(0#4, 0x3F#8), (1#4, 0x1F#8)])).setI 0xFFF#16

theorem test_witness_DrawTogglesTheSpritePixels :
    (0#4 = 0#4 ∨ (State.reset.setI 0xFFFF#16).i.toNat + (0#4).toNat ≤ 4096) ∧
    (1#4 = 0#4 ∨ drawing.i.toNat + (1#4).toNat ≤ 4096) ∧
    (SpriteCovers drawing 0#4 1#4 1#4 63 31 ∧ drawing.disp.pixel 63 31 = false) ∧
    (SpriteCovers (withPixel 63 31 drawing) 0#4 1#4 1#4 63 31 ∧ (withPixel 63 31 drawing).disp.pixel 63 31 = true) ∧
    ¬ SpriteCovers drawing 0#4 1#4 1#4 0 31 := by
  refine ⟨by decide, by decide, ⟨⟨0, 0, by decide⟩, by decide⟩, ⟨⟨0, 0, by decide⟩, by decide⟩, ?_⟩
  rintro ⟨r, c, _, _, _, h, _⟩
  replace h : 0 = 63 + c := h
  omega

theorem test_witness_DrawFaultsBeyondMemory :
    2#4 ≠ 0#4 ∧ 4096 < (State.reset.setI 0xFFF#16).i.toNat + (2#4).toNat := by decide

/-- What the draw of `drawing` leads to. -/
def drawn : State := (withPixel 63 31 drawing).setDirty true

theorem test_witness_SecondDrawRestoresTheDisplay :
    (1#4 = 0#4 ∨ drawing.i.toNat + (1#4).toNat ≤ 4096) ∧
    seen (exec (.drw 0#4 1#4 1#4) drawing) (fun t => decide (t = drawn)) = some true ∧
    drawn.i = drawing.i ∧ drawn.readV 0#4 = drawing.readV 0#4 ∧ drawn.readV 1#4 = drawing.readV 1#4 ∧
    drawn.mem.get 0xFFF = drawing.mem.get 0xFFF := by decide

theorem test_witness_KeySkipsFollowTheKey :
    (State.reset.readV 0#4).toNat = (0 : Fin 16).val ∧ ((withRegs [(15#4, 15#8)]).readV 15#4).toNat = (15 : Fin 16).val := by
  decide

theorem test_witness_KeyIndexAboveFifteenFaults :
    15 < ((withRegs [(1#4, 0x10#8)]).readV 1#4).toNat ∧ 15 < ((withRegs [(1#4, 0xFF#8)]).readV 1#4).toNat := by decide

/-- The reset state with the key wait `FF0A` at the last address a fetch reads, and pc there. -/
def waiting : State := (State.reset.setPc 0xFFE#16).withFetchWord 16 0xFF0A

theorem test_witness_KeyWaitSpinsWithoutAKey :
    waiting.run = .running ∧ waiting.pc.toNat ≤ 0xFFE ∧
    waiting.mem.get waiting.pc.toNat ++ waiting.mem.get (waiting.pc.toNat + 1) = formXNN 0xF#4 0xF#4 0x0A#8 ∧
    ∀ k : Fin 16, waiting.keys[k.val] = false := by decide

theorem test_witness_KeyWaitTakesAPressedKey :
    (∃ k : Fin 16, (withKey 0 waiting).keys[k.val] = true) ∧
    (∃ k : Fin 16, (withKey 15 waiting).keys[k.val] = true) ∧ lowestKey.keySelect = .lowest := by decide

theorem test_witness_TimerTickStopsAtZero : ticking.timerTick = .external ∧ documented.timerTick = .none := by decide

theorem test_witness_InstructionsWriteOnlyWhatTheTableGives :
    exec (.ldImm 0#4 0x2A#8) (State.reset.setDirty true) =
      .next ((State.reset.setDirty true).writeV 0#4 0x2A#8) ∧
    ((State.reset.setDirty true).writeV 0#4 0x2A#8).run = .running ∧
    mayWrite (.ldImm 0#4 0x2A#8) (.v 1#4) = false ∧ (State.reset.setDirty true).dirty = true :=
  ⟨rfl, rfl, by decide, rfl⟩

theorem test_witness_NoInstructionReadsDirtyOrSoundTimer :
    seen (step lastWord) State.pc = some 0x1000#16 ∧
    step faultedState = .fault (.engineFaulted ⟨.fetchOutOfRange, 0xFFF#16, 0xFFF⟩) := ⟨by decide, rfl⟩

theorem test_witness_StepNeverTicksTimersOrWritesKeys :
    seen (step lastWord) State.pc = some 0x1000#16 ∧ (∀ x, lastWord.wordAtPc ≠ formXNN 0xF#4 x 0x15#8) ∧
    ∀ x, lastWord.wordAtPc ≠ formXNN 0xF#4 x 0x18#8 := by decide

/-- A state that is not the reset state meets the invariant, and one that a fault has been taken in does. -/
theorem test_witness_StepKeepsTheInvariant :
    Inv lastWord ∧ seen (step lastWord) State.pc = some 0x1000#16 ∧
    seen (stepUnder lowestKey lastWord) State.pc = some 0x1000#16 :=
  ⟨⟨by decide, by decide, by decide, trivial⟩, by decide, by decide⟩

theorem test_witness_HostActionsKeepTheInvariant :
    Inv faultedState ∧ hostActUnder ticking .timerTick faultedState = .next faultedState :=
  ⟨⟨by decide, by decide, by decide, rfl, rfl, by decide⟩, rfl⟩

theorem test_witness_StatesAgreeingOnEveryPartAreEqual :
    lastWord.mem.wf ∧ UnchangedBut [] lastWord lastWord := ⟨by decide, fun p _ => by cases p <;> rfl⟩

/-- One safe cycle, after which the next one faults: the boundary of both sides. -/
theorem test_witness_SafeCyclesMakeASafeRun :
    StaysRunning 1 lastWord ∧ lastWord.run = .running ∧ lastWord.cycleFault = none ∧
    seen (step lastWord) State.cycleFault = some (some (.fetchOutOfRange, 0x1000)) :=
  ⟨⟨rfl, _, rfl, rfl⟩, rfl, by decide, by decide⟩

end Sys2Proof.Tests
end

section
/-! SUPPORT. The scope (00_scope.md R9): reset from any state under any configuration, and the step as the execution of
the decoded instruction. -/

namespace Sys2Proof.Machine

/-! ### Blocks of memory as parts -/

@[simp] theorem byte_mem_bytesFrom {base len a : Nat} :
    Part.byte a ∈ bytesFrom base len ↔ base ≤ a ∧ a < base + len := by
  simp only [bytesFrom, List.mem_map, List.mem_range, Part.byte.injEq]
  constructor
  · rintro ⟨k, hk, rfl⟩
    omega
  · rintro ⟨hlo, hhi⟩
    exact ⟨a - base, by omega, by omega⟩

/-! ### Reset (70_reset_and_hazards.md R230, R231) -/

theorem fontMemory_get_fontByte (font : Vector Byte 80) (k : Nat) (h : k < 80) :
    (fontMemory font).get (0x050 + k) = font[k] := by
  have hr : 0x050 ≤ 0x050 + k ∧ 0x050 + k < 0x0A0 := by omega
  rw [fontMemory_get, dif_pos hr]
  simp

theorem fontMemory_get_outside_font (font : Vector Byte 80) (a : Nat) (h : ¬ (0x050 ≤ a ∧ a < 0x0A0)) :
    (fontMemory font).get a = State.reset.mem.get a := by
  rw [fontMemory_get, dif_neg h]
  rfl

theorem hostActUnder_reset (p : Config.Parameters) (s : State) :
    hostActUnder p .reset s = .next (s.resetAgain p) := rfl

theorem State.resetAgain_documented (s : State) : s.resetAgain documented = { State.reset with draws := s.draws } := by
  rw [State.resetAgain, State.resetUnder_documented]

/-- The frame of a reset under any FONT, against the reset state of the documented one: only the font's place in memory and
the model's count of draws may differ. -/
theorem State.resetAgain_frame (p : Config.Parameters) (s : State) :
    UnchangedBut (.draws :: bytesFrom 0x050 80) State.reset (s.resetAgain p) := by
  intro part hpart
  cases part with
  | byte a => exact fontMemory_get_outside_font p.font a (by simpa using hpart)
  | draws => simp at hpart
  | _ => rfl

/-- Settles O15: the reset's outcome does not look at the state but for its count of draws, and the memory it leaves is
`fontMemory` of the configuration's FONT. -/
theorem resetIsTheSameFromEveryState : Obligations.ResetIsTheSameFromEveryState := by
  intro s
  constructor
  · rw [hostAct, hostActUnder_reset, State.resetAgain_documented]
  · intro p
    exact ⟨s.resetAgain p, hostActUnder_reset p s, fontMemory_wf p.font, fontMemory_get_fontByte p.font, rfl,
      s.resetAgain_frame p⟩

/-! ### The cycle (40_cycle.md R103 to R105) -/

theorem stepUnder_exec (p : Config.Parameters) {s : State} {i : Instr} (h : s.run = .running)
    (hp : s.pc.toNat ≤ 0xFFE) (hi : decodeWord s.wordAtPc = .ok i) :
    stepUnder p s = execUnder p i s.advancePc := cycleWith_exec h hp hi

/-- KEY_SELECT matters to `Fx0A` alone (45_keys_timers.md R198). -/
theorem execUnder_of_ne_ldVxK (p : Config.Parameters) {i : Instr} (hi : ∀ x, i ≠ .ldVxK x) :
    execUnder p i = exec i := by
  funext s
  rcases execUnder_cases p i s with h | ⟨x, hx, _⟩
  · exact h
  · exact absurd hx (hi x)

/-- Settles O6: the cycle's law for a decoded word, for `exec` and for the executor of each configuration. -/
theorem stepRunsTheDecodedInstruction : Obligations.StepRunsTheDecodedInstruction := by
  intro s i hrun hpc hdec
  refine ⟨step_exec hrun hpc hdec, fun p => ⟨stepUnder_exec p hrun hpc hdec, ?_⟩⟩
  rintro (hi | rfl)
  · exact execUnder_of_ne_ldVxK p hi
  · rw [execUnder_documented]

end Sys2Proof.Machine
end

section
/-! SUPPORT. Each word has one meaning: an instruction that the decoder answers encodes to the decoded word
(30_encoding.md R76, R77). -/

namespace Sys2Proof

/-! ### Forms of a word whose fixed fields are known -/

section
variable {w : Word}

theorem formNNN_eq_of_fields {k : Nibble} (hk : fieldCode w = k) : formNNN k (fieldNNN w) = w := by
  rw [← hk, formNNN_fields]

theorem formXNN_eq_of_fields {k : Nibble} {nn : Byte} (hk : fieldCode w = k) (hnn : fieldNN w = nn) :
    formXNN k (fieldX w) nn = w := by
  rw [← hk, ← hnn, formXNN_fields]

theorem formXYN_eq_of_fields {k n : Nibble} (hk : fieldCode w = k) (hn : fieldN w = n) :
    formXYN k (fieldX w) (fieldY w) n = w := by
  rw [← hk, ← hn, formXYN_fields]

/-! ### The families of the two-level dispatch -/

variable {i : Instr}

theorem encode_of_decodeFamily0 (hk : fieldCode w = 0x0#4) (h : decodeFamily0 w = .ok i) : encode i = w := by
  unfold decodeFamily0 at h
  split at h <;> cases h
  case h_1 hnnn | h_2 hnnn =>
    rw [← formNNN_eq_of_fields hk, hnnn]
    rfl
  case h_3 => exact formNNN_eq_of_fields hk

theorem encode_of_decodeFamily5 (hk : fieldCode w = 0x5#4) (h : decodeFamily5 w = .ok i) : encode i = w := by
  unfold decodeFamily5 at h
  split at h <;> cases h
  exact formXYN_eq_of_fields hk ‹_›

theorem encode_of_decodeFamily8 (hk : fieldCode w = 0x8#4) (h : decodeFamily8 w = .ok i) : encode i = w := by
  unfold decodeFamily8 at h
  split at h <;> cases h <;> exact formXYN_eq_of_fields hk ‹_›

theorem encode_of_decodeFamily9 (hk : fieldCode w = 0x9#4) (h : decodeFamily9 w = .ok i) : encode i = w := by
  unfold decodeFamily9 at h
  split at h <;> cases h
  exact formXYN_eq_of_fields hk ‹_›

theorem encode_of_decodeFamilyE (hk : fieldCode w = 0xE#4) (h : decodeFamilyE w = .ok i) : encode i = w := by
  unfold decodeFamilyE at h
  split at h <;> cases h <;> exact formXNN_eq_of_fields hk ‹_›

theorem encode_of_decodeFamilyF (hk : fieldCode w = 0xF#4) (h : decodeFamilyF w = .ok i) : encode i = w := by
  unfold decodeFamilyF at h
  split at h <;> cases h <;> exact formXNN_eq_of_fields hk ‹_›

/-- A decoded instruction encodes to the word it was decoded from: case `h_k` of the dispatch is family `k - 1`, and the last
one no family. -/
theorem encode_of_decodeWord (h : decodeWord w = .ok i) : encode i = w := by
  unfold decodeWord at h
  split at h
  case h_1 hk => exact encode_of_decodeFamily0 hk h
  case h_6 hk => exact encode_of_decodeFamily5 hk h
  case h_9 hk => exact encode_of_decodeFamily8 hk h
  case h_10 hk => exact encode_of_decodeFamily9 hk h
  case h_15 hk => exact encode_of_decodeFamilyE hk h
  case h_16 hk => exact encode_of_decodeFamilyF hk h
  case h_2 hk | h_3 hk | h_11 hk | h_12 hk =>
    cases h
    exact formNNN_eq_of_fields hk
  case h_4 hk | h_5 hk | h_7 hk | h_8 hk | h_13 hk =>
    cases h
    exact formXNN_eq_of_fields hk rfl
  case h_14 hk =>
    cases h
    exact formXYN_eq_of_fields hk rfl
  case h_17 => cases h

end

end Sys2Proof
end

section
/-! SUPPORT. The state's frame rules (10_state.md): its parts determine it, no instruction writes more than the register-use
table of R23 gives it, and a step writes no key and counts no timer down. -/

namespace Sys2Proof.Machine

/-! ### The parts of a state determine it (R20) -/

theorem State.v_eq_of_readV_eq {s t : State} (h : ∀ r, t.readV r = s.readV r) : t.v = s.v := by
  apply Vector.ext
  intro k hk
  rw [← State.readV_ofNat t k hk, h, State.readV_ofNat s k hk]

/-- Settles O59: field by field, each field by its parts; for memory the canonical form is what makes equal bytes equal
data. -/
theorem statesAgreeingOnEveryPartAreEqual : Obligations.StatesAgreeingOnEveryPartAreEqual := by
  intro s t hs ht h
  have agree : ∀ p, s.agreesAt t p := fun p => h p List.not_mem_nil
  have hmem : t.mem = s.mem := Memory.ext_of_get _ _ ht hs fun a => agree (.byte a)
  have hv : t.v = s.v := State.v_eq_of_readV_eq fun r => agree (.v r)
  have hstack : t.stack = s.stack := Vector.ext fun j hj => agree (.stack ⟨j, hj⟩)
  have hdisp : t.disp = s.disp := Display.ext_pixel _ _ fun x y => agree (.pixel x y)
  have hkeys : t.keys = s.keys := Vector.ext fun k hk => agree (.key ⟨k, hk⟩)
  cases s
  cases t
  rw [State.mk.injEq]
  exact ⟨hmem, hv, agree .i, agree .pc, hstack, agree .sp, agree .dt, agree .st, hdisp, agree .dirty, hkeys, agree .run,
    agree .draws⟩

/-! ### Frames over a set of parts -/

/-- Every part outside `W` reads the same in `t` as in `s`: `UnchangedBut` with any set of parts in place of a list. -/
def WritesOnly (W : Part → Prop) (s t : State) : Prop := ∀ p, ¬ W p → s.agreesAt t p

theorem unchangedBut_iff_writesOnly {parts : List Part} {s t : State} :
    UnchangedBut parts s t ↔ WritesOnly (· ∈ parts) s t := Iff.rfl

section
variable {W : Part → Prop} {s t u : State}

theorem WritesOnly.refl : WritesOnly W s s := by
  intro p _
  cases p <;> rfl

theorem WritesOnly.mono {W' : Part → Prop} (h : WritesOnly W s t) (hW : ∀ p, W p → W' p) : WritesOnly W' s t :=
  fun p hp => h p fun hw => hp (hW p hw)

theorem WritesOnly.trans (h₁ : WritesOnly W s t) (h₂ : WritesOnly W t u) : WritesOnly W s u := by
  intro p hp
  have e₁ := h₁ p hp
  have e₂ := h₂ p hp
  cases p <;> exact Eq.trans e₂ e₁

variable (s)

/-- Registers written as a whole, of which those outside the set keep their values. -/
theorem writesOnly_registers {v : Vector Byte 16} (h : ∀ q, ¬ W (.v q) → State.readV q { s with v := v } = s.readV q) :
    WritesOnly W s { s with v := v } := by
  intro p hp
  cases p with
  | v q => exact h q hp
  | _ => rfl

theorem writesOnly_writeV {r : RegIx} (b : Byte) (h : W (.v r)) : WritesOnly W s (s.writeV r b) :=
  writesOnly_registers s fun q hq => s.readV_writeV_ne b fun e : q = r => hq (e ▸ h)

theorem writesOnly_loadBlock {bytes : List Byte} (h : ∀ q : RegIx, q.toNat < bytes.length → W (.v q)) :
    WritesOnly W s (s.loadBlock bytes) := by
  refine writesOnly_registers s fun q hq => ?_
  have hlen : bytes.length ≤ q.toNat := Nat.le_of_not_lt fun hlt => hq (h q hlt)
  exact (s.readV_loadBlock bytes q).trans (List.getD_eq_default _ _ hlen)

theorem writesOnly_setI (a : Word) (h : W .i) : WritesOnly W s (s.setI a) := by
  intro p hp
  cases p with
  | i => exact absurd h hp
  | _ => rfl

theorem writesOnly_setPc (a : Word) (h : W .pc) : WritesOnly W s (s.setPc a) := by
  intro p hp
  cases p with
  | pc => exact absurd h hp
  | _ => rfl

theorem writesOnly_skipIf (c : Bool) (h : W .pc) : WritesOnly W s (s.skipIf c) := by
  cases c
  · exact .refl
  · exact writesOnly_setPc s _ h

theorem writesOnly_setDt (b : Byte) (h : W .dt) : WritesOnly W s (s.setDt b) := by
  intro p hp
  cases p with
  | dt => exact absurd h hp
  | _ => rfl

theorem writesOnly_setSt (b : Byte) (h : W .st) : WritesOnly W s (s.setSt b) := by
  intro p hp
  cases p with
  | st => exact absurd h hp
  | _ => rfl

theorem writesOnly_setMem (m : Memory) (h : ∀ a, W (.byte a)) : WritesOnly W s (s.setMem m) := by
  intro p hp
  cases p with
  | byte a => exact absurd (h a) hp
  | _ => rfl

theorem writesOnly_setDisp (d : Display) (h : ∀ x y, W (.pixel x y)) : WritesOnly W s (s.setDisp d) := by
  intro p hp
  cases p with
  | pixel x y => exact absurd (h x y) hp
  | _ => rfl

theorem writesOnly_setDirty (b : Bool) (h : W .dirty) : WritesOnly W s (s.setDirty b) := by
  intro p hp
  cases p with
  | dirty => exact absurd h hp
  | _ => rfl

theorem writesOnly_setRun (r : RunState) (h : W .run) : WritesOnly W s (s.setRun r) := by
  intro p hp
  cases p with
  | run => exact absurd h hp
  | _ => rfl

theorem writesOnly_enterFaulted (c : FaultCause) (a : Word) (n : Nat) (hpc : W .pc) (hrun : W .run) :
    WritesOnly W s (s.enterFaulted c a n) :=
  (writesOnly_setPc s a hpc).trans (writesOnly_setRun _ _ hrun)

theorem writesOnly_nextDraw (h : W .draws) : WritesOnly W s s.nextDraw := by
  intro p hp
  cases p with
  | draws => exact absurd h hp
  | _ => rfl

end

/-! ### What an instruction writes (R23) -/

/-- The table's test for the registers of an instruction that writes a result and a flag (R22, R23). -/
theorem isResultOrFlag {r : RegIx} (x : RegIx) (h : r = x ∨ r = vF) : (r == x || r == vF) = true := by simpa using h

/-- Everything an instruction can do to the parts of a state: it takes a fault, or it writes what the table gives it. -/
theorem exec_writes_cases (i : Instr) (s : State) :
    (∃ c n, exec i s = raiseFault c n s) ∨ ∃ t, exec i s = .next t ∧ WritesOnly (fun p => mayWrite i p = true) s t := by
  cases i with
  | sys nnn => exact .inr ⟨_, rfl, .refl⟩
  | jp _ | jpV0 _ => exact .inr ⟨_, rfl, writesOnly_setPc s _ rfl⟩
  | seImm _ _ | sneImm _ _ | seReg _ _ | sneReg _ _ => exact .inr ⟨_, rfl, writesOnly_skipIf s _ rfl⟩
  | ldI _ | addI _ | ldF _ => exact .inr ⟨_, rfl, writesOnly_setI s _ rfl⟩
  | ldDTVx _ => exact .inr ⟨_, rfl, writesOnly_setDt s _ rfl⟩
  | ldSTVx _ => exact .inr ⟨_, rfl, writesOnly_setSt s _ rfl⟩
  | ldImm x _ | addImm x _ | ldReg x _ | orReg x _ | andReg x _ | xorReg x _ | ldVxDT x =>
    exact .inr ⟨_, rfl, writesOnly_writeV s _ (beq_self_eq_true _)⟩
  | addReg x _ =>
    exact .inr ⟨_, rfl, .trans (writesOnly_writeV s _ (isResultOrFlag x (.inl rfl)))
      (writesOnly_writeV _ _ (isResultOrFlag x (.inr rfl)))⟩
  | sub x _ | subn x _ | shr x _ | shl x _ =>
    exact .inr ⟨_, rfl, .trans (writesOnly_writeV s _ (isResultOrFlag x (.inr rfl)))
      (writesOnly_writeV _ _ (isResultOrFlag x (.inl rfl)))⟩
  | rnd x nn =>
    exact .inr ⟨_, rfl, .trans (writesOnly_writeV s _ (beq_self_eq_true _)) (writesOnly_nextDraw _ rfl)⟩
  | cls =>
    exact .inr ⟨_, rfl, .trans (writesOnly_setDisp s _ fun _ _ => rfl) (writesOnly_setDirty _ _ rfl)⟩
  | ret =>
    rcases execRet_cases s with ⟨_, h⟩ | ⟨_, h⟩
    · exact .inl ⟨_, _, h⟩
    · refine .inr ⟨_, h, fun p hp => ?_⟩
      cases p with
      | sp | pc => exact absurd rfl hp
      | _ => rfl
  | call nnn =>
    rcases execCall_cases nnn s with ⟨_, h⟩ | ⟨_, h⟩
    · exact .inl ⟨_, _, h⟩
    · refine .inr ⟨_, h, fun p hp => ?_⟩
      cases p with
      | stack _ | sp | pc => exact absurd rfl hp
      | _ => rfl
  | drw x y n =>
    rcases execDrw_cases x y n s with ⟨_, d, _, h⟩ | ⟨_, h⟩
    · exact .inr ⟨_, h, .trans (.trans (writesOnly_writeV s _ (beq_self_eq_true _)) (writesOnly_setDisp _ _ fun _ _ => rfl))
        (writesOnly_setDirty _ _ rfl)⟩
    · exact .inl ⟨_, _, h⟩
  | skp x =>
    rcases keyIndex_cases (s.readV x) with ⟨h, _⟩ | ⟨_, h⟩
    · exact .inl ⟨_, _, by rw [exec, execSkp, h]⟩
    · exact .inr ⟨_, by rw [exec, execSkp, h], writesOnly_skipIf s _ rfl⟩
  | sknp x =>
    rcases keyIndex_cases (s.readV x) with ⟨h, _⟩ | ⟨_, h⟩
    · exact .inl ⟨_, _, by rw [exec, execSknp, h]⟩
    · exact .inr ⟨_, by rw [exec, execSknp, h], writesOnly_skipIf s _ rfl⟩
  | ldVxK x =>
    rcases execLdVxK_cases x s with ⟨_, h⟩ | ⟨_, _, h⟩
    · exact .inr ⟨_, h, writesOnly_setPc s _ rfl⟩
    · exact .inr ⟨_, h, .trans (writesOnly_writeV s _ (beq_self_eq_true _)) (writesOnly_nextDraw _ rfl)⟩
  | ldB x =>
    rcases storeAtI_cases (bcdDigits (s.readV x)) s (by simp [bcdDigits]) with ⟨_, h⟩ | ⟨_, h⟩
    · exact .inr ⟨_, h, writesOnly_setMem s _ fun _ => rfl⟩
    · exact .inl ⟨_, _, h⟩
  | storeRegs x =>
    rcases storeAtI_cases (s.regBlock x) s (by simp) with ⟨_, h⟩ | ⟨_, h⟩
    · exact .inr ⟨_, h, writesOnly_setMem s _ fun _ => rfl⟩
    · exact .inl ⟨_, _, h⟩
  | loadRegs x =>
    rcases execLoadRegs_cases x s with ⟨_, h⟩ | ⟨_, h⟩
    · refine .inr ⟨_, h, writesOnly_loadBlock s fun q hq => ?_⟩
      rw [Memory.getBlock_length] at hq
      exact decide_eq_true (Nat.le_of_lt_succ hq)
    · exact .inl ⟨_, _, h⟩

/-- A fault's next state is its entry. -/
theorem eq_enterFaulted_of_raiseFault {c : FaultCause} {n : Nat} {s t : State} (h : raiseFault c n s = .next t) :
    t = s.enterFaulted c s.execAddr n :=
  (Host.Outcome.next.inj h).symm

/-- What an instruction writes, from the state it goes on to: fault entry writes pc and `run`, else the table says. -/
theorem exec_next_cases {i : Instr} {s t : State} (h : exec i s = .next t) :
    (∃ c n, t = s.enterFaulted c s.execAddr n) ∨ WritesOnly (fun p => mayWrite i p = true) s t := by
  rcases exec_writes_cases i s with ⟨c, n, hf⟩ | ⟨t', ht', hw⟩
  · exact .inl ⟨c, n, eq_enterFaulted_of_raiseFault (hf.symm.trans h)⟩
  · cases ht'.symm.trans h
    exact .inr hw

/-! ### dirty (R33) -/

/-- The two instructions that the table lets write dirty set it, unless they fault. -/
theorem exec_sets_dirty {i : Instr} {s t : State} (h : exec i s = .next t) (hi : mayWrite i .dirty = true) :
    (∃ c n, t = s.enterFaulted c s.execAddr n) ∨ t.dirty = true := by
  cases i with
  | cls =>
    cases h
    exact .inr rfl
  | drw x y n =>
    rcases execDrw_cases x y n s with ⟨_, d, _, hd⟩ | ⟨_, hd⟩
    · cases hd.symm.trans h
      exact .inr rfl
    · exact .inl ⟨_, _, eq_enterFaulted_of_raiseFault (hd.symm.trans h)⟩
  | _ => cases hi

/-- No instruction clears dirty: the host alone does (60_exceptions.md R222). -/
theorem exec_keeps_dirty {i : Instr} {s t : State} (h : exec i s = .next t) (hs : s.dirty = true) :
    t.dirty = true := by
  by_cases hi : mayWrite i .dirty = true
  · rcases exec_sets_dirty h hi with ⟨c, n, rfl⟩ | ht
    · exact hs
    · exact ht
  · rcases exec_next_cases h with ⟨c, n, rfl⟩ | hw
    · exact hs
    · exact (hw .dirty hi).trans hs

/-- Settles O53: an instruction that does not fault writes within its row of the table, by cases on the instruction, and
dirty is set or left alone. -/
theorem instructionsWriteOnlyWhatTheTableGives : Obligations.InstructionsWriteOnlyWhatTheTableGives := by
  intro i s t h hrun
  refine ⟨fun p hp => ?_, exec_keeps_dirty h⟩
  rcases exec_next_cases h with ⟨c, n, rfl⟩ | hw
  · cases hrun
  · exact hw p (by simp [hp])

/-! ### Keys and timers (R34, 45_keys_timers.md R199) -/

theorem mayWrite_key (i : Instr) (k : Fin 16) : mayWrite i (.key k) = false := by cases i <;> rfl

/-- `Fx15` alone writes DT. -/
theorem mayWrite_dt {i : Instr} (h : ∀ x, i ≠ .ldDTVx x) : mayWrite i .dt = false := by
  cases i with
  | ldDTVx x => exact absurd rfl (h x)
  | _ => rfl

/-- `Fx18` alone writes ST. -/
theorem mayWrite_st {i : Instr} (h : ∀ x, i ≠ .ldSTVx x) : mayWrite i .st = false := by
  cases i with
  | ldSTVx x => exact absurd rfl (h x)
  | _ => rfl

/-- A step leaves alone every part but pc and `run`, which the fetch and a fault write, that the table does not give to the
decoded instruction. -/
theorem step_agreesAt {s t : State} {p : Part} (h : step s = .next t) (hpc : .pc ≠ p) (hrun : .run ≠ p)
    (hw : ∀ i, decodeWord s.wordAtPc = .ok i → mayWrite i p = false) : s.agreesAt t p := by
  suffices hW : WritesOnly (· ≠ p) s t from hW p (not_not_intro rfl)
  have advance : WritesOnly (· ≠ p) s s.advancePc := writesOnly_setPc s _ hpc
  rcases step_running_cases (step_next_running h) with ⟨_, hs⟩ | ⟨_, i, hi, hs⟩ | ⟨_, _, _, hs⟩
  · cases hs.symm.trans h
    exact writesOnly_enterFaulted s _ _ _ hpc hrun
  · refine advance.trans ?_
    rcases exec_next_cases (hs.symm.trans h) with ⟨c, n, rfl⟩ | hx
    · exact writesOnly_enterFaulted _ _ _ _ hpc hrun
    · refine hx.mono fun q hq => ?_
      rintro rfl
      exact absurd hq (by simp [hw i hi])
  · cases hs.symm.trans h
    exact advance

/-- Settles O55: the table gives no instruction a key, DT to `Fx15` alone and ST to `Fx18` alone, and the decoder takes each
of these two from its own words only. -/
theorem stepNeverTicksTimersOrWritesKeys : Obligations.StepNeverTicksTimersOrWritesKeys := by
  intro s t h
  refine ⟨Vector.ext fun k hk => ?_, fun hword => ?_, fun hword => ?_⟩
  · exact step_agreesAt (p := .key ⟨k, hk⟩) h nofun nofun fun i _ => mayWrite_key i _
  · refine step_agreesAt (p := .dt) h nofun nofun fun i hi => mayWrite_dt ?_
    rintro x rfl
    exact hword x (encode_of_decodeWord hi).symm
  · refine step_agreesAt (p := .st) h nofun nofun fun i hi => mayWrite_st ?_
    rintro x rfl
    exact hword x (encode_of_decodeWord hi).symm

end Sys2Proof.Machine
end

section
/-! SUPPORT. Memory behind the register transfers (20_memory.md R55, R61, R64): what `Fx55` leaves in memory is what `Fx65`
loads and what the fetch reads. -/

namespace Sys2Proof.Machine

/-! ### `Fx55` and `Fx65` with their block in memory (44_index_memory.md R174, R175) -/

theorem exec_storeRegs_of_lt {x : RegIx} {s : State} (h : s.i.toNat + x.toNat < 4096) :
    exec (.storeRegs x) s = .next (s.setMem (s.mem.putBlock s.i.toNat (s.regBlock x))) := by
  change storeAtI (s.regBlock x) s = _
  rcases storeAtI_cases (s.regBlock x) s (by simp) with ⟨_, hs⟩ | ⟨hr, _⟩
  · exact hs
  · rw [State.regBlock_length] at hr
    exact absurd hr (Nat.not_lt.mpr h)

theorem exec_loadRegs_of_lt {x : RegIx} {s : State} (h : s.i.toNat + x.toNat < 4096) :
    exec (.loadRegs x) s = .next (s.loadBlock (s.mem.getBlock s.i.toNat (x.toNat + 1))) := by
  change execLoadRegs x s = _
  rcases execLoadRegs_cases x s with ⟨_, hs⟩ | ⟨hr, _⟩
  · exact hs
  · exact absurd hr (Nat.not_lt.mpr h)

/-- Byte `k` of a list stored in range reads back. -/
theorem Memory.get_putBlock_add {m : Memory} {bytes : List Byte} {base k : Nat} {b : Byte} (hm : m.wf)
    (hr : base + bytes.length ≤ Config.memSize) (hb : bytes[k]? = some b) :
    (m.putBlock base bytes).get (base + k) = b := by
  rw [Memory.get_putBlock bytes base m hm hr, if_pos (Nat.le_add_right base k), Nat.add_sub_cancel_left,
    List.getD_eq_getElem?_getD, hb, Option.getD_some]

/-- After `Fx55`, the byte at I + k is Vk as the registers were before it. -/
theorem mem_get_of_exec_storeRegs {x k : RegIx} {s t : State} (hm : s.mem.wf) (h : s.i.toNat + x.toNat < 4096)
    (hk : k.toNat ≤ x.toNat) (hs : exec (.storeRegs x) s = .next t) :
    t.mem.get (s.i.toNat + k.toNat) = s.readV k := by
  cases (exec_storeRegs_of_lt h).symm.trans hs
  have hr : s.i.toNat + (s.regBlock x).length ≤ Config.memSize := by
    rw [State.regBlock_length]
    exact h
  have hb : (s.regBlock x)[k.toNat]? = some (s.readV k) := by
    rw [State.regBlock_get s x k.toNat hk, BitVec.ofNat_toNat, BitVec.setWidth_eq]
  exact Memory.get_putBlock_add hm hr hb

/-- A register within a block loaded from memory takes its byte of memory. -/
theorem State.readV_loadBlock_getBlock (s : State) (m : Memory) (base len : Nat) {k : RegIx} (hk : k.toNat < len) :
    (s.loadBlock (m.getBlock base len)).readV k = m.get (base + k.toNat) := by
  rw [State.readV_loadBlock, List.getD_eq_getElem?_getD, Memory.getBlock_get m base len _ hk, Option.getD_some]

/-- Settles O42: the load reads the bytes at I to I + x, where the store left V0 to Vx. -/
theorem storedRegistersLoadBack : Obligations.StoredRegistersLoadBack := by
  intro x s t u hm h hs hmem hi
  have hu : u.i.toNat + x.toNat < 4096 := by rwa [hi]
  refine ⟨_, exec_loadRegs_of_lt hu, fun k hk => ?_⟩
  calc (u.loadBlock (u.mem.getBlock u.i.toNat (x.toNat + 1))).readV k
      _ = u.mem.get (u.i.toNat + k.toNat) := State.readV_loadBlock_getBlock u _ _ _ (Nat.lt_succ_of_le hk)
      _ = t.mem.get (s.i.toNat + k.toNat) := by rw [hmem, hi]
      _ = s.readV k := mem_get_of_exec_storeRegs hm h hk hs

/-! ### The fetch after a store (R64) -/

/-- The word at an address is the byte there and the one after it, high byte first (R55). -/
theorem State.fetchWord_setPc {a : Word} (s : State) (h : a.toNat + 1 < 4096) :
    (s.setPc a).fetchWord = some (s.mem.get a.toNat ++ s.mem.get (a.toNat + 1)) :=
  State.fetchWord_of_le (s.setPc a) (show a.toNat ≤ 0xFFE by omega)

/-- Settles O43: the fetch at I + k reads the bytes at I + k and I + (k + 1), and neither address wraps. -/
theorem storedBytesAreFetched : Obligations.StoredBytesAreFetched := by
  intro x k s t hm h hk hs
  have hx := x.isLt
  have haddr : (s.i + BitVec.ofNat 16 k.toNat).toNat = s.i.toNat + k.toNat := by
    rw [BitVec.toNat_add, BitVec.toNat_ofNat]
    omega
  have hnext : (k + 1#4).toNat = k.toNat + 1 := by
    rw [BitVec.toNat_add, BitVec.toNat_ofNat]
    omega
  have hhigh := mem_get_of_exec_storeRegs hm h hk.le hs
  have hlow : t.mem.get (s.i.toNat + k.toNat + 1) = s.readV (k + 1#4) := by
    rw [Nat.add_assoc, ← hnext]
    exact mem_get_of_exec_storeRegs hm h (hnext ▸ hk) hs
  rw [State.fetchWord_setPc t (by omega), haddr, hhigh, hlow]

end Sys2Proof.Machine
end

section
/-! SUPPORT. The encoding (30_encoding.md R70 to R82): the decoder inverts the encoder on the well-formed instructions, and
the rows of the opcode map are disjoint and are the decoder's. -/

namespace Sys2Proof

/-! ### Family 0x0 (R76, R82) -/

section
variable {w : Word}

theorem decodeWord_family0 (hk : fieldCode w = 0x0#4) : decodeWord w = decodeFamily0 w := by simp only [decodeWord, hk]

/-- Every word but those of `00E0` and `00EE` is the no-op row. -/
theorem decodeFamily0_sys {nnn : Addr12} (hw : fieldNNN w = nnn) (h0 : nnn ≠ 0x0E0#12) (hE : nnn ≠ 0x0EE#12) :
    decodeFamily0 w = .ok (.sys nnn) := by
  subst hw
  unfold decodeFamily0
  split
  · exact absurd ‹_› h0
  · exact absurd ‹_› hE
  · rfl

/-- The family has no unmatched word. -/
theorem exists_decodeFamily0 (w : Word) : ∃ i, decodeFamily0 w = .ok i := by
  unfold decodeFamily0
  split <;> exact ⟨_, rfl⟩

end

/-! ### Decoding what was encoded (R71, R77) -/

theorem Instr.wellFormed_sys {nnn : Addr12} :
    (Instr.sys nnn).wellFormed = true ↔ nnn ≠ 0x0E0#12 ∧ nnn ≠ 0x0EE#12 := by simp [Instr.wellFormed]

/-- The encoder keeps every operand and the decoder finds each in its field: by cases on the instruction, grouped by how
much of a word its row fixes. -/
theorem decodeWord_encode {i : Instr} (h : i.wellFormed = true) : decodeWord (encode i) = .ok i := by
  cases i with
  | cls | ret => rfl
  | sys nnn =>
    obtain ⟨h0, hE⟩ := Instr.wellFormed_sys.mp h
    exact (decodeWord_family0 (fieldCode_formNNN _ nnn)).trans (decodeFamily0_sys (fieldNNN_formNNN _ nnn) h0 hE)
  | jp _ | call _ | seImm _ _ | sneImm _ _ | ldImm _ _ | addImm _ _ | ldI _ | jpV0 _ | rnd _ _ | drw _ _ _ =>
    simp [encode, decodeWord]
  | seReg _ _ | ldReg _ _ | orReg _ _ | andReg _ _ | xorReg _ _ | addReg _ _ | sub _ _ | shr _ _ | subn _ _ | shl _ _
  | sneReg _ _ => simp [encode, decodeWord, decodeFamily5, decodeFamily8, decodeFamily9]
  | skp _ | sknp _ | ldVxDT _ | ldVxK _ | ldDTVx _ | ldSTVx _ | addI _ | ldF _ | ldB _ | storeRegs _ | loadRegs _ =>
    simp [encode, decodeWord, decodeFamilyE, decodeFamilyF]

/-- The decoder on a word laid out in its two bytes, high byte first (R70). -/
theorem decode_bytes_of_decodeWord {w : Word} {i : Instr} (h : decodeWord w = .ok i) (rest : List Byte) :
    decode (highByte w :: lowByte w :: rest) = .ok (i, rest) := by
  rw [decode, wordOfBytes_bytes, h]

/-- Settles O1: the two bytes are the encoded word's, and decoding that word finds each operand in its field. -/
theorem decodeOfEncodeIsTheInstruction : Obligations.DecodeOfEncodeIsTheInstruction :=
  fun _ rest hwf => decode_bytes_of_decodeWord (decodeWord_encode hwf) rest

/-! ### Each word has one meaning (R73, R77) -/

/-- An instruction is well formed exactly where its word stands for it: a `0nnn` no-op with the operand of `00E0` or `00EE`
is the one that does not come back (R78, R82). -/
theorem Instr.wellFormed_iff_decodeWord_encode {i : Instr} :
    i.wellFormed = true ↔ decodeWord (encode i) = .ok i := by
  refine ⟨decodeWord_encode, fun h => ?_⟩
  cases i with
  | sys nnn =>
    refine Instr.wellFormed_sys.mpr ⟨?_, ?_⟩
    · rintro rfl
      exact absurd h (by decide)
    · rintro rfl
      exact absurd h (by decide)
  | _ => rfl

/-- The decoder is the inverse of the encoder. -/
theorem decodeWord_eq_ok_iff {w : Word} {i : Instr} : decodeWord w = .ok i ↔ i.wellFormed = true ∧ encode i = w := by
  constructor
  · intro h
    have hw : encode i = w := encode_of_decodeWord h
    exact ⟨Instr.wellFormed_iff_decodeWord_encode.mpr (hw ▸ h), hw⟩
  · rintro ⟨hwf, rfl⟩
    exact decodeWord_encode hwf

/-- Settles O2: one direction of `decodeWord_eq_ok_iff`. -/
theorem encodeOfDecodeIsTheWord : Obligations.EncodeOfDecodeIsTheWord := fun _ _ h => decodeWord_eq_ok_iff.mp h

/-! ### The rows of the opcode map are disjoint (R77) -/

/-- Two rows that select one word agree in the bits that both fix. -/
theorem OpcodeRow.bits_agree_of_selects {r q : OpcodeRow} {w : Word} (hr : r.selects w) (hq : q.selects w) :
    r.bits &&& q.mask = q.bits &&& r.mask := by
  calc r.bits &&& q.mask
      _ = w &&& r.mask &&& q.mask := by rw [hr]
      _ = w &&& q.mask &&& r.mask := by rw [BitVec.and_assoc, BitVec.and_comm r.mask, BitVec.and_assoc]
      _ = q.bits &&& r.mask := by rw [hq]

/-- Any two rows of the map differ in a bit that both fix. -/
theorem opcodeMap_pairwise_bits_ne : opcodeMap.Pairwise fun r q => r.bits &&& q.mask ≠ q.bits &&& r.mask := by decide

/-- Settles O3: any two rows fix some bit to different values, which no word can have both of. -/
theorem opcodeRowsAreDisjoint : Obligations.OpcodeRowsAreDisjoint :=
  ⟨rfl, opcodeMap_pairwise_bits_ne.imp fun hne _ ⟨hr, hq⟩ => hne (OpcodeRow.bits_agree_of_selects hr hq)⟩

/-! ### The dispatch is the opcode map (R76, R77, R78, R79) -/

theorem exists_row_of_mem_opcodeMap {r : OpcodeRow} (h : r ∈ opcodeMap) : ∃ j : Instr, j.row = r := by
  simp only [opcodeMap, ← List.map_append] at h
  obtain ⟨j, _, hj⟩ := List.mem_map.mp h
  exact ⟨j, hj⟩

/-- The map holds the row of every instruction but the no-op `0nnn`. -/
theorem row_mem_opcodeMap_iff {i : Instr} : i.row ∈ opcodeMap ↔ ∀ nnn, i ≠ .sys nnn := by
  cases i <;> simp [opcodeMap, Instr.row]

/-- An encoded instruction is selected by its own row. -/
theorem row_selects_encode (i : Instr) : i.row.selects (encode i) := by
  cases i with
  | cls | ret => rfl
  | jp _ | call _ | ldI _ | jpV0 _ | sys _ => exact (and_F000 _).trans (by rw [encode, fieldCode_formNNN]; rfl)
  | seImm _ _ | sneImm _ _ | ldImm _ _ | addImm _ _ | rnd _ _ =>
    exact (and_F000 _).trans (by rw [encode, fieldCode_formXNN]; rfl)
  | drw _ _ _ => exact (and_F000 _).trans (by rw [encode, fieldCode_formXYN]; rfl)
  | seReg _ _ | sneReg _ _ | ldReg _ _ | orReg _ _ | andReg _ _ | xorReg _ _ | addReg _ _ | sub _ _ | shr _ _ | subn _ _
  | shl _ _ => exact (and_F00F _).trans (by rw [encode, fieldCode_formXYN, fieldN_formXYN]; rfl)
  | skp _ | sknp _ | ldVxDT _ | ldVxK _ | ldDTVx _ | ldSTVx _ | addI _ | ldF _ | ldB _ | storeRegs _ | loadRegs _ =>
    exact (and_F0FF _).trans (by rw [encode, fieldCode_formXNN, fieldY_formXNN, fieldN_formXNN]; rfl)

section
variable {w v : Word}

/-- Words that agree under the mask of a row with only its family fixed. -/
theorem fieldCode_eq_of_and_F000 (h : w &&& 0xF000#16 = v &&& 0xF000#16) : fieldCode w = fieldCode v := by
  rw [and_F000, and_F000, formXYN_inj] at h
  obtain ⟨hk, -⟩ := h
  exact hk

/-- Words that agree under the mask of a row that fixes its family and n. -/
theorem fields_eq_of_and_F00F (h : w &&& 0xF00F#16 = v &&& 0xF00F#16) :
    fieldCode w = fieldCode v ∧ fieldN w = fieldN v := by
  rw [and_F00F, and_F00F, formXYN_inj] at h
  obtain ⟨hk, -, -, hn⟩ := h
  exact ⟨hk, hn⟩

/-- Words that agree under the mask of a row that fixes its family and nn. -/
theorem fields_eq_of_and_F0FF (h : w &&& 0xF0FF#16 = v &&& 0xF0FF#16) :
    fieldCode w = fieldCode v ∧ fieldNN w = fieldNN v := by
  rw [and_F0FF, and_F0FF, formXYN_inj] at h
  obtain ⟨hk, -, hyn⟩ := h
  exact ⟨hk, ((fieldNN_eq_iff w _ _).mpr hyn).trans ((fieldNN_eq_iff v _ _).mpr ⟨rfl, rfl⟩).symm⟩

end

/-- A word that a row of the map selects decodes to an instruction of that row: under the row's mask the word agrees with an
encoded instruction of the row, and the mask keeps the fields that the dispatch looks at. -/
theorem exists_decodeWord_of_selects {j : Instr} {w : Word} (hj : j.row ∈ opcodeMap) (h : j.row.selects w) :
    ∃ i, decodeWord w = .ok i ∧ i.row = j.row := by
  have agree : w &&& j.row.mask = encode j &&& j.row.mask := h.trans (row_selects_encode j).symm
  cases j with
  | sys nnn => exact absurd rfl (row_mem_opcodeMap_iff.mp hj nnn)
  | cls | ret =>
    cases (BitVec.and_allOnes (x := w)).symm.trans h
    exact ⟨_, rfl, rfl⟩
  | jp _ | call _ | seImm _ _ | sneImm _ _ | ldImm _ _ | addImm _ _ | ldI _ | jpV0 _ | rnd _ _ | drw _ _ _ =>
    simp [decodeWord, fieldCode_eq_of_and_F000 agree, encode, Instr.row]
  | seReg _ _ | ldReg _ _ | orReg _ _ | andReg _ _ | xorReg _ _ | addReg _ _ | sub _ _ | shr _ _ | subn _ _ | shl _ _
  | sneReg _ _ =>
    obtain ⟨hk, hn⟩ := fields_eq_of_and_F00F agree
    simp [decodeWord, hk, decodeFamily5, decodeFamily8, decodeFamily9, hn, encode, Instr.row]
  | skp _ | sknp _ | ldVxDT _ | ldVxK _ | ldDTVx _ | ldSTVx _ | addI _ | ldF _ | ldB _ | storeRegs _ | loadRegs _ =>
    obtain ⟨hk, hnn⟩ := fields_eq_of_and_F0FF agree
    simp [decodeWord, hk, decodeFamilyE, decodeFamilyF, hnn, encode, Instr.row]

/-- The decoder's one error on a word is that the word is unmatched. -/
theorem eq_unmatched_of_decodeWord_error {w : Word} {e : DecodeRefusal} (h : decodeWord w = .error e) :
    e = .unmatched w := by
  unfold decodeWord decodeFamily5 decodeFamily8 decodeFamily9 decodeFamilyE decodeFamilyF at h
  split at h
  case h_1 =>
    obtain ⟨i, hi⟩ := exists_decodeFamily0 w
    cases hi.symm.trans h
  case h_6 | h_9 | h_10 | h_15 | h_16 =>
    split at h <;> cases h
    rfl
  all_goals cases h
  rfl

/-- Family 0x0 has no error (R82). -/
theorem fieldCode_ne_zero_of_decodeWord_error {w : Word} {e : DecodeRefusal} (h : decodeWord w = .error e) :
    fieldCode w ≠ 0x0#4 := by
  intro hk
  obtain ⟨i, hi⟩ := exists_decodeFamily0 w
  rw [decodeWord_family0 hk, hi] at h
  cases h

/-- An instruction that a word of no row decodes to is the no-op of the word's own `nnn` (R82). -/
theorem decoded_eq_sys_of_no_row {w : Word} {i : Instr} (hno : ∀ r ∈ opcodeMap, ¬ r.selects w)
    (h : decodeWord w = .ok i) : fieldCode w = 0x0#4 ∧ i = .sys (fieldNNN w) := by
  have hw : encode i = w := encode_of_decodeWord h
  have hrow : i.row ∉ opcodeMap := fun hi => hno _ hi (hw ▸ row_selects_encode i)
  obtain ⟨nnn, rfl⟩ : ∃ nnn, i = .sys nnn := by simpa [row_mem_opcodeMap_iff] using hrow
  rw [← hw, encode, fieldCode_formNNN, fieldNNN_formNNN]
  exact ⟨rfl, rfl⟩

/-- Settles O4: the row of a decoded instruction selects the word it encodes to; a selecting row fixes the fields that the
dispatch looks at; and without one the decoder can only answer the no-op row or its error. -/
theorem decoderFollowsTheOpcodeMap : Obligations.DecoderFollowsTheOpcodeMap := by
  intro w
  refine ⟨fun i h => encode_of_decodeWord h ▸ row_selects_encode i, fun r hr h => ?_, fun hno => ?_⟩
  · obtain ⟨j, rfl⟩ := exists_row_of_mem_opcodeMap hr
    exact exists_decodeWord_of_selects hr h
  · cases hd : decodeWord w with
    | ok i =>
      obtain ⟨hk, rfl⟩ := decoded_eq_sys_of_no_row hno hd
      exact ⟨fun _ => rfl, fun hne => absurd hk hne⟩
    | error e =>
      cases eq_unmatched_of_decodeWord_error hd
      exact ⟨fun hk => absurd hk (fieldCode_ne_zero_of_decodeWord_error hd), fun _ => rfl⟩

/-! ### Words of the spec (95_test_vectors.md), and the no-op row (R82, D24) -/

/-- Settles O5: the first six words are encodings of well-formed instructions; family 0x5 has no word with n = 1. -/
theorem decoderReadsWordsOfTheSpec : Obligations.DecoderReadsWordsOfTheSpec := by
  refine ⟨?_, ?_, ?_, ?_, ?_, ?_, ?unmatched⟩
  case unmatched => rfl
  all_goals exact decodeWord_eq_ok_iff.mpr ⟨rfl, rfl⟩

/-- Settles O9: the word is the encoding of a well-formed no-op, and the no-op's meaning answers its state. -/
theorem sysRowIsANoOp : Obligations.SysRowIsANoOp :=
  fun _ _ => ⟨fun h0 hE => decodeWord_eq_ok_iff.mpr ⟨Instr.wellFormed_sys.mpr ⟨h0, hE⟩, rfl⟩, rfl⟩

end Sys2Proof
end

section
/-! SUPPORT. The cycle on what is no instruction of the opcode map (40_cycle.md R101, R107): an unmatched word, and a pc with
no word. -/

namespace Sys2Proof.Machine

/-! ### Unmatched words (30_encoding.md R79, 40_cycle.md R107) -/

/-- No instruction of the opcode map encodes to an unmatched word: its family has no unmatched words, or its key is none
of the family's set. -/
theorem not_unmatchedWord_encode {i : Instr} (hi : ∀ nnn, i ≠ .sys nnn) : ¬ UnmatchedWord (encode i) := by
  cases i with
  | sys nnn => exact absurd rfl (hi nnn)
  | cls | ret => decide
  | jp _ | call _ | seImm _ _ | sneImm _ _ | ldImm _ _ | addImm _ _ | ldI _ | jpV0 _ | rnd _ _ | drw _ _ _ =>
    simp [encode]
  | seReg _ _ | ldReg _ _ | orReg _ _ | andReg _ _ | xorReg _ _ | addReg _ _ | sub _ _ | shr _ _ | subn _ _ | shl _ _
  | sneReg _ _ | skp _ | sknp _ | ldVxDT _ | ldVxK _ | ldDTVx _ | ldSTVx _ | addI _ | ldF _ | ldB _ | storeRegs _
  | loadRegs _ => simp [encode]

/-- The decoder answers an unmatched word with its error, or in family 0x0 with the no-op row (R82, D24). -/
theorem decodeWord_of_unmatchedWord {w : Word} (hw : UnmatchedWord w) :
    decodeWord w = .error (.unmatched w) ∨ ∃ nnn, decodeWord w = .ok (.sys nnn) := by
  cases hd : decodeWord w with
  | error e =>
    cases eq_unmatched_of_decodeWord_error hd
    exact .inl rfl
  | ok i =>
    have henc : encode i = w := encode_of_decodeWord hd
    obtain ⟨nnn, rfl⟩ : ∃ nnn, i = .sys nnn := by
      by_contra hno
      exact not_unmatchedWord_encode (not_exists.mp hno) (henc ▸ hw)
    exact .inr ⟨nnn, rfl⟩

/-- The cycle's law for an unmatched word: both answers of the decoder leave the advanced state as it is. -/
theorem step_unmatchedWord {s : State} (hrun : s.run = .running) (hpc : s.pc.toNat ≤ 0xFFE)
    (hw : UnmatchedWord s.wordAtPc) : step s = .next s.advancePc := by
  rcases decodeWord_of_unmatchedWord hw with hd | ⟨nnn, hd⟩
  · exact step_unmatched hrun hpc hd
  · obtain ⟨-, hexec⟩ := sysRowIsANoOp nnn s.advancePc
    exact (step_exec hrun hpc hd).trans hexec

/-- Settles O8: 0x0000 is of family 0x0 and the words of the second clause are the set of family 0x8; the step is
`step_unmatchedWord`. -/
theorem unmatchedWordOnlyAdvancesPc : Obligations.UnmatchedWordOnlyAdvancesPc := by
  refine ⟨by decide, fun w hk hn => .inr (.inr (.inl ⟨hk, hn⟩)), ?_⟩
  rintro s w hrun hpc hw rfl
  exact step_unmatchedWord hrun hpc hw

/-! ### The fetch fault (40_cycle.md R101, 60_exceptions.md R202) -/

/-- Settles O7: the fault's address is the pc itself, so fault entry changes `run` alone. -/
theorem fetchBeyondMemoryFaults : Obligations.FetchBeyondMemoryFaults := by
  intro s hrun hpc
  rw [step_fetchFault hrun hpc, State.fetchFault_eq, State.setRun]

end Sys2Proof.Machine
end

section
/-! SUPPORT. The display instructions (41_display.md): `00E0`, and `Dxyn` by the pixels its sprite covers, with the second
draw undoing the first. -/

namespace Sys2Proof.Machine

/-! ### The pixels as parts, and `00E0` (R120) -/

theorem pixel_mem_allPixels (x : Fin 64) (y : Fin 32) : Part.pixel x y ∈ allPixels := by simp [allPixels]

/-- Settles O44: the blank display has no pixel on, and only the display and dirty are written. -/
theorem clearTurnsEveryPixelOff : Obligations.ClearTurnsEveryPixelOff := by
  refine ⟨decodeWord_encode (i := .cls) rfl, fun s => ⟨_, rfl, Display.pixel_blank, rfl, ?frame⟩⟩
  case frame =>
    exact unchangedBut_iff_writesOnly.mpr <|
      (writesOnly_setDisp s _ fun x y => .tail _ (pixel_mem_allPixels x y)).trans
        (writesOnly_setDirty _ _ List.mem_cons_self)

/-! ### Two paintings of the same pixels -/

section
variable {S : Fin 64 → Fin 32 → Prop} {d e f : Canvas} {disp : Display}

theorem Paints.collisionFlag_eq_one (h : Paints S ⟨disp, false⟩ d)
    (hon : ∃ px py, S px py ∧ disp.pixel px py = true) : collisionFlag d.hit = 1#8 := by
  rw [h.hit.mpr (.inr hon)]
  rfl

theorem Paints.collisionFlag_eq_zero (h : Paints S ⟨disp, false⟩ d)
    (hoff : ¬ ∃ px py, S px py ∧ disp.pixel px py = true) : collisionFlag d.hit = 0#8 := by
  have hd : d.hit = false := Bool.eq_false_iff.mpr fun hhit => (h.hit.mp hhit).elim nofun hoff
  rw [hd]
  rfl

/-- Toggling the same pixels again gives each its first value back. -/
theorem Paints.disp_restored (h₁ : Paints S d e) (h₂ : Paints S ⟨e.disp, false⟩ f) : f.disp = d.disp := by
  refine Display.ext_pixel _ _ fun px py => ?_
  by_cases hS : S px py
  · rw [h₂.toggled px py hS, h₁.toggled px py hS, Bool.not_not]
  · rw [h₂.kept px py hS, h₁.kept px py hS]

/-- The painted pixels that are on are those that were off. -/
theorem Paints.exists_on_iff (h : Paints S d e) :
    (∃ px py, S px py ∧ e.disp.pixel px py = true) ↔ ∃ px py, S px py ∧ d.disp.pixel px py = false := by
  refine exists₂_congr fun px py => and_congr_right fun hS => ?_
  rw [h.toggled px py hS, Bool.not_eq_true']

end

/-! ### `Dxyn` (R122 to R129) -/

/-- The pixels a sprite covers depend on I, Vx, Vy and the sprite's bytes alone. -/
theorem SpriteCovers.congr {x y : RegIx} {n : Nibble} {s u : State} (hi : u.i = s.i) (hx : u.readV x = s.readV x)
    (hy : u.readV y = s.readV y)
    (hbytes : ∀ r, r < n.toNat → u.mem.get (s.i.toNat + r) = s.mem.get (s.i.toNat + r)) :
    SpriteCovers u x y n = SpriteCovers s x y n := by
  funext px py
  refine propext (exists₂_congr fun r c => and_congr_right fun hr => ?_)
  rw [hi, hx, hy, hbytes r hr]

/-- Everything `Dxyn` does where its n bytes are in memory: it paints the covered pixels, VF is the collision, dirty is set
and the rest is kept. -/
theorem exec_drw_of_le (x y : RegIx) (n : Nibble) (s : State) (h : n = 0#4 ∨ s.i.toNat + n.toNat ≤ 4096) :
    ∃ d t, Paints (SpriteCovers s x y n) ⟨s.disp, false⟩ d ∧ exec (.drw x y n) s = .next t ∧ t.disp = d.disp ∧
      t.readV vF = collisionFlag d.hit ∧ t.dirty = true ∧ UnchangedBut (.v vF :: .dirty :: allPixels) s t := by
  obtain ⟨d, hd, hs⟩ := execDrw_next x y n s (h.imp_left (congrArg BitVec.toNat))
  refine ⟨d, _, hd, hs, rfl, State.readV_writeV_same s vF _, rfl, unchangedBut_iff_writesOnly.mpr ?_⟩
  exact ((writesOnly_writeV s _ (by simp)).trans
    (writesOnly_setDisp _ _ fun px py => by simp [pixel_mem_allPixels])).trans (writesOnly_setDirty _ _ (by simp))

/-- Settles O45: the painting of the covered pixels, clause by clause. -/
theorem drawTogglesTheSpritePixels : Obligations.DrawTogglesTheSpritePixels := by
  intro x y n s h
  obtain ⟨d, t, hd, hs, hdisp, hflag, hdirty, hframe⟩ := exec_drw_of_le x y n s h
  refine ⟨decodeWord_encode (i := .drw x y n) rfl, t, hs, ?_⟩
  rw [hdisp, hflag]
  exact ⟨hd.toggled, hd.kept, hd.collisionFlag_eq_one, hd.collisionFlag_eq_zero, hdirty, hframe⟩

/-- Settles O47: the second draw covers the pixels of the first, so it toggles each of them back and collides where the
first one turned a pixel on. -/
theorem secondDrawRestoresTheDisplay : Obligations.SecondDrawRestoresTheDisplay := by
  intro x y n s t u h hfirst hdisp hi hx hy hbytes
  obtain ⟨d, t', hd, hs, ht, -⟩ := exec_drw_of_le x y n s h
  cases hs.symm.trans hfirst
  obtain ⟨e, w, he, hu, hw, hflag, -⟩ := exec_drw_of_le x y n u (hi ▸ h)
  rw [SpriteCovers.congr hi hx hy hbytes, hdisp, ht] at he
  refine ⟨w, hu, hw.trans (hd.disp_restored he), ?_⟩
  rw [hflag, ← hd.exists_on_iff]
  exact ⟨he.collisionFlag_eq_one, he.collisionFlag_eq_zero⟩

/-- Settles O46: the read of the sprite's bytes fails at `max I 4096`, before anything is written, and fault entry writes
pc and `run` alone. -/
theorem drawFaultsBeyondMemory : Obligations.DrawFaultsBeyondMemory := by
  intro x y n s hn hlt
  rcases execDrw_cases x y n s with ⟨hfits, -⟩ | ⟨-, hs⟩
  · have hle : s.i.toNat + n.toNat ≤ 4096 := hfits.resolve_left fun h0 => hn (BitVec.eq_of_toNat_eq h0)
    exact absurd hle (Nat.not_le.mpr hlt)
  · exact hs

end Sys2Proof.Machine
end

section
/-! SUPPORT. The invariant under a cycle (42_flow.md R137, 40_cycle.md R103, 60_exceptions.md R201, R202): the bounds of the
state, each operation's share in keeping them, and the record a fault leaves. -/

namespace Sys2Proof.Machine

/-! ### Addresses as numbers (30_encoding.md R74) -/

@[simp] theorem toNat_addrOperand (nnn : Addr12) : (addrOperand nnn).toNat = nnn.toNat := by
  rw [addrOperand, BitVec.toNat_setWidth_of_le (by decide)]

@[simp] theorem toNat_zextByte (b : Byte) : (zextByte b).toNat = b.toNat := by
  rw [zextByte, BitVec.toNat_setWidth_of_le (by decide)]

/-- The target of `Bnnn` is the exact sum: at most 0xFFF + 0xFF, it never wraps (42_flow.md R137). -/
theorem toNat_offsetTarget (nnn : Addr12) (b : Byte) : (offsetTarget nnn b).toNat = nnn.toNat + b.toNat := by
  rw [offsetTarget, BitVec.toNat_add_of_lt, toNat_addrOperand, toNat_zextByte]
  rw [toNat_addrOperand, toNat_zextByte]
  omega

/-- Up to 0x1000, which is as far as a fetch can advance, adding 2 does not wrap (40_cycle.md R103). -/
theorem toNat_add_two {a : Word} (ha : a.toNat ≤ 0x1000) : (a + 2#16).toNat = a.toNat + 2 :=
  BitVec.toNat_add_of_lt (show a.toNat + 2 < 65536 by omega)

/-- Everything a skip on a key can answer (45_keys_timers.md R190, R191, R196). -/
theorem exec_keySkip_cases {i : Instr} {x : RegIx} (hi : i = .skp x ∨ i = .sknp x) (s : State) :
    exec i s = raiseFault .keyIndexOutOfRange (s.readV x).toNat s ∨ ∃ c, exec i s = .next (s.skipIf c) := by
  rcases keyIndex_cases (s.readV x) with ⟨hk, -⟩ | ⟨_, hk⟩
  · left
    rcases hi with rfl | rfl <;> simp [exec, execSkp, execSknp, hk]
  · right
    rcases hi with rfl | rfl <;> exact ⟨_, by simp [exec, execSkp, execSknp, hk]; rfl⟩

/-! ### The bounds of the invariant -/

/-- The invariant but for its clause on the fault record. -/
structure Bounded (s : State) : Prop where
  memCanonical : s.mem.wf
  pcBound : s.pc.toNat ≤ 0x10FE
  stackBound : ∀ j : Fin 16, (s.stack[j.val]).toNat ≤ 0x1000

/-- The bounds of the state an instruction is executed in: the fetch succeeded and has advanced pc by 2, with no wrap
(40_cycle.md R101, R103). -/
structure Fetched (s : State) : Prop extends Bounded s where
  pcAdvanced : 2 ≤ s.pc.toNat
  pcFetched : s.pc.toNat ≤ 0x1000

theorem inv_iff {s : State} : Inv s ↔ Bounded s ∧ s.recordFits :=
  ⟨fun ⟨hmem, hpc, hstack, hrec⟩ => ⟨⟨hmem, hpc, hstack⟩, hrec⟩,
    fun ⟨⟨hmem, hpc, hstack⟩, hrec⟩ => ⟨hmem, hpc, hstack, hrec⟩⟩

section
variable {s t : State}

theorem State.recordFits_of_running (h : s.run = .running) : s.recordFits := by
  rw [State.recordFits, h]
  trivial

theorem State.recordFits_fetchFault (h : 0xFFE < s.pc.toNat) : s.fetchFault.recordFits := ⟨rfl, rfl, h⟩

theorem Bounded.of_eq (hs : Bounded s) (hmem : t.mem = s.mem) (hpc : t.pc = s.pc) (hstack : t.stack = s.stack) :
    Bounded t :=
  ⟨hmem ▸ hs.memCanonical, hpc ▸ hs.pcBound, hstack ▸ hs.stackBound⟩

theorem Bounded.setPc (hs : Bounded s) {a : Word} (ha : a.toNat ≤ 0x10FE) : Bounded (s.setPc a) :=
  ⟨hs.memCanonical, ha, hs.stackBound⟩

theorem Bounded.setMem (hs : Bounded s) {m : Memory} (hm : m.wf) : Bounded (s.setMem m) :=
  ⟨hm, hs.pcBound, hs.stackBound⟩

theorem Bounded.fetched_advancePc (hs : Bounded s) (hpc : s.pc.toNat ≤ 0xFFE) : Fetched s.advancePc := by
  have hadd : s.advancePc.pc.toNat = s.pc.toNat + 2 := toNat_add_two (by omega)
  exact ⟨hs.setPc (by rw [toNat_add_two] <;> omega), by omega, by omega⟩

namespace Fetched
variable (hs : Fetched s)
include hs

theorem bounded_skipIf (c : Bool) : Bounded (s.skipIf c) := by
  have hpc := hs.pcFetched
  cases c with
  | false => exact hs.toBounded
  | true => exact hs.setPc (by rw [toNat_add_two hpc]; omega)

theorem bounded_rewindPc : Bounded s.rewindPc := by
  have hlow : 2#16 ≤ s.pc := hs.pcAdvanced
  have hhigh := hs.pcFetched
  exact hs.setPc (by rw [State.execAddr, BitVec.toNat_sub_of_le hlow]; omega)

/-- Fault entry is the rewind, with `run` set (60_exceptions.md R201). -/
theorem bounded_enterFaulted (c : FaultCause) (n : Nat) : Bounded (s.enterFaulted c s.execAddr n) :=
  hs.bounded_rewindPc.of_eq rfl rfl rfl

theorem bounded_of_execRet (h : execRet s = .next t) : Bounded t := by
  rcases execRet_cases s with ⟨-, hr⟩ | ⟨hsp, hr⟩ <;> cases hr.symm.trans h
  · exact hs.bounded_enterFaulted _ _
  · have hsp' := s.sp.isLt
    have htop := hs.stackBound ⟨s.sp.val - 1, by omega⟩
    exact ⟨hs.memCanonical, htop.trans (by decide), hs.stackBound⟩

theorem bounded_of_execCall {nnn : Addr12} (h : execCall nnn s = .next t) : Bounded t := by
  rcases execCall_cases nnn s with ⟨-, hr⟩ | ⟨hsp, hr⟩ <;> cases hr.symm.trans h
  · exact hs.bounded_enterFaulted _ _
  · refine ⟨hs.memCanonical, ?_, fun j => ?_⟩
    · simp only [toNat_addrOperand]
      omega
    · simp only [Vector.getElem_set]
      split
      · exact hs.pcFetched
      · exact hs.stackBound j

theorem bounded_of_storeAtI {bytes : List Byte} (hb : bytes.length ≠ 0) (h : storeAtI bytes s = .next t) : Bounded t := by
  rcases storeAtI_cases bytes s hb with ⟨-, hr⟩ | ⟨-, hr⟩ <;> cases hr.symm.trans h
  · exact hs.setMem (Memory.putBlock_wf _ _ _ hs.memCanonical)
  · exact hs.bounded_enterFaulted _ _

theorem bounded_of_keySkip {i : Instr} {x : RegIx} (hi : i = .skp x ∨ i = .sknp x) (h : exec i s = .next t) :
    Bounded t := by
  rcases exec_keySkip_cases hi s with hr | ⟨_, hr⟩ <;> cases hr.symm.trans h
  · exact hs.bounded_enterFaulted _ _
  · exact hs.bounded_skipIf _

/-- Every instruction, in every configuration, keeps the bounds: pc is written by the control transfers, the skips, the key
wait and fault entry, the stack by the call alone, and memory by the two stores. -/
theorem bounded_of_execUnder {p : Config.Parameters} {i : Instr} (h : execUnder p i s = .next t) : Bounded t := by
  cases i with
  | jp nnn =>
    cases h
    exact hs.setPc (by rw [toNat_addrOperand]; omega)
  | jpV0 nnn =>
    cases h
    exact hs.setPc (by rw [toNat_offsetTarget]; omega)
  | seImm _ _ | sneImm _ _ | seReg _ _ | sneReg _ _ =>
    cases h
    exact hs.bounded_skipIf _
  | skp x => exact hs.bounded_of_keySkip (i := .skp x) (.inl rfl) h
  | sknp x => exact hs.bounded_of_keySkip (i := .sknp x) (.inr rfl) h
  | ret => exact hs.bounded_of_execRet h
  | call _ => exact hs.bounded_of_execCall h
  | ldB _ => exact hs.bounded_of_storeAtI (by simp [bcdDigits]) h
  | storeRegs _ => exact hs.bounded_of_storeAtI (by simp) h
  | ldVxK x =>
    rcases execLdVxKUnder_cases p.keySelect x s with ⟨-, hr⟩ | ⟨_, -, -, hr⟩ <;> cases hr.symm.trans h
    · exact hs.bounded_rewindPc
    · exact hs.of_eq rfl rfl rfl
  | drw x y n =>
    rcases execDrw_cases x y n s with ⟨-, _, -, hr⟩ | ⟨-, hr⟩ <;> cases hr.symm.trans h
    · exact hs.of_eq rfl rfl rfl
    · exact hs.bounded_enterFaulted _ _
  | loadRegs x =>
    rcases execLoadRegs_cases x s with ⟨-, hr⟩ | ⟨-, hr⟩ <;> cases hr.symm.trans h
    · exact hs.of_eq rfl rfl rfl
    · exact hs.bounded_enterFaulted _ _
  | cls | sys _ | ldImm _ _ | addImm _ _ | ldReg _ _ | orReg _ _ | andReg _ _ | xorReg _ _ | addReg _ _ | sub _ _
  | shr _ _ | subn _ _ | shl _ _ | rnd _ _ | ldVxDT _ | ldDTVx _ | ldSTVx _ | ldI _ | addI _ | ldF _ =>
    cases h
    exact hs.of_eq rfl rfl rfl

end Fetched

end

/-! ### The fault record (60_exceptions.md R201, R202) -/

theorem eq_max_of_firstBadAddress {base len a : Nat} (h : firstBadAddress base len = some a) : a = max base 4096 := by
  rw [firstBadAddress_eq] at h
  obtain ⟨-, ha⟩ := lowestOutOfRange_some.mp h
  exact ha

/-- Fault entry with a cause and an info of the fault table leaves a record that fits, wherever pc is put. -/
theorem recordFits_of_faultOf {i : Instr} {s : State} {c : FaultCause} {n : Nat} (h : faultOf i s = some (c, n))
    (a : Word) : (s.enterFaulted c a n).recordFits := by
  cases i with
  | drw _ _ _ | loadRegs _ | ldB _ | storeRegs _ =>
    obtain ⟨b, hb, he⟩ := Option.map_eq_some_iff.mp h
    cases he
    exact ⟨rfl, eq_max_of_firstBadAddress hb⟩
  | call _ | ret =>
    obtain ⟨hsp, he⟩ := Option.ite_none_right_eq_some.mp h
    cases he
    exact ⟨rfl, rfl, hsp⟩
  | skp x | sknp x =>
    obtain ⟨hx, he⟩ := Option.ite_none_right_eq_some.mp h
    cases he
    exact ⟨rfl, hx, x, rfl⟩
  | _ => cases h

/-- `exec_cases` in every configuration. -/
theorem execUnder_fault_cases (p : Config.Parameters) (i : Instr) (s : State) :
    (∃ c n, faultOf i s = some (c, n) ∧ execUnder p i s = raiseFault c n s) ∨
    (faultOf i s = none ∧ ∃ t, execUnder p i s = .next t ∧ t.run = s.run) := by
  rcases execUnder_cases p i s with he | ⟨x, rfl, he⟩ <;> rw [he]
  · exact exec_cases i s
  · rcases execLdVxKUnder_cases p.keySelect x s with ⟨-, hr⟩ | ⟨_, -, -, hr⟩ <;> exact .inr ⟨rfl, _, hr, rfl⟩

theorem recordFits_of_execUnder {p : Config.Parameters} {i : Instr} {s t : State} (hrun : s.run = .running)
    (h : execUnder p i s = .next t) : t.recordFits := by
  rcases execUnder_fault_cases p i s with ⟨c, n, hf, hr⟩ | ⟨-, t', hr, hrun'⟩ <;> cases hr.symm.trans h
  · exact recordFits_of_faultOf hf _
  · exact State.recordFits_of_running (hrun'.trans hrun)

/-! ### The cycle -/

/-- Everything a cycle that goes on can have been, in every configuration (40_cycle.md R111). -/
theorem stepUnder_next_cases {p : Config.Parameters} {s t : State} (h : stepUnder p s = .next t) :
    s.run = .running ∧
      ((0xFFE < s.pc.toNat ∧ t = s.fetchFault) ∨
        (s.pc.toNat ≤ 0xFFE ∧ ((∃ i, execUnder p i s.advancePc = .next t) ∨ t = s.advancePc))) := by
  cases hrun : s.run with
  | faulted r => cases (cycleWith_faulted hrun).symm.trans h
  | running =>
    refine ⟨rfl, ?_⟩
    rcases Nat.lt_or_ge 0xFFE s.pc.toNat with hp | hp
    · cases (cycleWith_fetchFault hrun hp).symm.trans h
      exact .inl ⟨hp, rfl⟩
    · refine .inr ⟨hp, ?_⟩
      cases hd : decodeWord s.wordAtPc with
      | ok i => exact .inl ⟨i, (stepUnder_exec p hrun hp hd).symm.trans h⟩
      | error e =>
        cases (cycleWith_unmatched hrun hp hd).symm.trans h
        exact .inr rfl

theorem stepUnder_keeps_inv {p : Config.Parameters} {s t : State} (hs : Inv s) (h : stepUnder p s = .next t) : Inv t := by
  obtain ⟨hb, -⟩ := inv_iff.mp hs
  refine inv_iff.mpr ?_
  obtain ⟨hrun, ⟨hp, rfl⟩ | ⟨hp, ⟨i, hi⟩ | rfl⟩⟩ := stepUnder_next_cases h
  · exact ⟨hb.of_eq rfl rfl rfl, State.recordFits_fetchFault hp⟩
  · exact ⟨(hb.fetched_advancePc hp).bounded_of_execUnder hi, recordFits_of_execUnder (s := s.advancePc) hrun hi⟩
  · exact ⟨(hb.fetched_advancePc hp).toBounded, State.recordFits_of_running hrun⟩

/-- Settles O57: `stepUnder_keeps_inv` is the clause for any configuration, and `step` is the documented one's. -/
theorem stepKeepsTheInvariant : Obligations.StepKeepsTheInvariant :=
  fun _ _ hs => ⟨fun h => stepUnder_keeps_inv hs (stepUnder_documented ▸ h), fun _ h => stepUnder_keeps_inv hs h⟩

end Sys2Proof.Machine
end

section
/-! SUPPORT. Control transfer, skips and the call stack (42_flow.md). -/

namespace Sys2Proof.Machine

/-! ### Jumps (R131, R137, R139) -/

theorem unchangedBut_setPc (s : State) (a : Word) : UnchangedBut [.pc] s (s.setPc a) :=
  unchangedBut_iff_writesOnly.mpr (writesOnly_setPc s a List.mem_cons_self)

/-- Settles O19: the target is `zext_16(nnn)`, and at 0xFFF, beyond the last pc that a fetch can read, the next step is the
fetch fault. -/
theorem jumpSetsThePc : Obligations.JumpSetsThePc := by
  intro nnn s
  refine ⟨decodeWord_encode (i := .jp nnn) rfl, _, rfl, toNat_addrOperand nnn, unchangedBut_setPc s _, ?_⟩
  rintro rfl hrun
  have hpc : 0xFFE < (addrOperand 0xFFF#12).toNat := by decide
  exact ⟨_, rfl, fetchBeyondMemoryFaults (s.setPc _) hrun hpc⟩

/-- Settles O26: the exact sum is `toNat_offsetTarget`. -/
theorem jumpWithOffsetAddsV0 : Obligations.JumpWithOffsetAddsV0 :=
  fun nnn s => ⟨decodeWord_encode (i := .jpV0 nnn) rfl, _, rfl, toNat_offsetTarget nnn _, unchangedBut_setPc s _⟩

/-! ### The call stack (R130, R132, R141) -/

/-- Settles O20: below SP = 16 the push writes the entry that SP names. -/
theorem callPushesTheReturnAddress : Obligations.CallPushesTheReturnAddress := by
  intro nnn s j hj
  refine ⟨decodeWord_encode (i := .call nnn) rfl, ?_⟩
  rcases execCall_cases nnn s with ⟨hsp, -⟩ | ⟨hsp, hs⟩
  · exact absurd (hj.symm.trans (congrArg Fin.val hsp)) j.isLt.ne
  · refine ⟨_, hs, by simp [hj], by simp [hj], toNat_addrOperand nnn, fun p hp => ?frame⟩
    case frame =>
      cases p with
      | sp | pc => simp at hp
      | stack k =>
        have hne : s.sp.val ≠ k.val := fun e => hp (by simp [Fin.ext (hj.symm.trans e)])
        exact Vector.getElem_set_ne hsp k.isLt hne
      | _ => rfl

/-- Settles O21: above SP = 0 the pop reads the entry below SP, and writes no entry. -/
theorem returnPopsTheReturnAddress : Obligations.ReturnPopsTheReturnAddress := by
  intro s j hj
  refine ⟨decodeWord_encode (i := .ret) rfl, ?_⟩
  rcases execRet_cases s with ⟨hsp, -⟩ | ⟨hsp, hs⟩
  · simp [hsp] at hj
  · refine ⟨_, hs, by simp [hj], by simp [hj], fun p hp => ?frame⟩
    case frame =>
      cases p with
      | sp | pc => simp at hp
      | _ => rfl

/-- Settles O22: neither a push at SP = 16 nor a pop at SP = 0 is possible, and fault entry writes pc and `run` alone. -/
theorem stackFaultsAtBothEnds : Obligations.StackFaultsAtBothEnds := by
  refine ⟨fun nnn s hsp => ?_, fun s hsp => ?_⟩
  · rcases execCall_cases nnn s with ⟨-, hs⟩ | ⟨hlt, -⟩
    · exact hs
    · exact absurd hlt (by simp [hsp])
  · rcases execRet_cases s with ⟨-, hs⟩ | ⟨hlt, -⟩
    · exact hs
    · exact absurd hlt (by simp [hsp])

/-- Settles O23: the return at the SP that the call left pops the entry that the call pushed. -/
theorem callThenReturnRestoresPcAndSp : Obligations.CallThenReturnRestoresPcAndSp := by
  intro nnn s t u hsp ht husp hentry
  have hlt : s.sp.val < 16 := Fin.val_lt_last hsp
  obtain ⟨-, t', ht', hpushed, htsp, -⟩ := callPushesTheReturnAddress nnn s ⟨s.sp.val, hlt⟩ rfl
  cases ht'.symm.trans ht
  obtain ⟨-, w, hw, hwsp, hwpc, -⟩ := returnPopsTheReturnAddress u ⟨s.sp.val, hlt⟩ (husp ▸ htsp)
  exact ⟨w, hw, (hwpc.trans (hentry _ rfl)).trans hpushed, Fin.ext hwsp⟩

/-! ### Skips (R133 to R136, R138) -/

theorem unchangedBut_skipIf (s : State) (c : Bool) : UnchangedBut [.pc] s (s.skipIf c) :=
  unchangedBut_iff_writesOnly.mpr (writesOnly_skipIf s c List.mem_cons_self)

theorem State.skipIf_beq_pc (s : State) (a b : Byte) :
    (s.skipIf (a == b)).pc = if a = b then s.pc + 2#16 else s.pc := by simp

theorem State.skipIf_bne_pc (s : State) (a b : Byte) :
    (s.skipIf (a != b)).pc = if a = b then s.pc else s.pc + 2#16 := by
  by_cases h : a = b <;> simp [h]

/-- Settles O24: the two skips are `skipIf` on the comparison and on its negation. -/
theorem immediateSkips : Obligations.ImmediateSkips :=
  fun x nn s =>
    ⟨⟨decodeWord_encode (i := .seImm x nn) rfl, _, rfl, s.skipIf_beq_pc _ _, unchangedBut_skipIf s _⟩,
      ⟨decodeWord_encode (i := .sneImm x nn) rfl, _, rfl, s.skipIf_bne_pc _ _, unchangedBut_skipIf s _⟩⟩

/-- Outside family 0x0 the decoder answers an unmatched word with its error (30_encoding.md R79). -/
theorem decodeWord_error_of_unmatchedWord {w : Word} (hw : UnmatchedWord w) (hk : fieldCode w ≠ 0x0#4) :
    decodeWord w = .error (.unmatched w) := by
  rcases decodeWord_of_unmatchedWord hw with hd | ⟨nnn, hd⟩
  · exact hd
  · have henc : encode (.sys nnn) = w := encode_of_decodeWord hd
    exact absurd (henc ▸ fieldCode_formNNN 0x0#4 nnn) hk

/-- Settles O25: the two skips are `skipIf` on the comparison and on its negation, and in families 0x5 and 0x9 a word with
another last nibble is unmatched. -/
theorem registerSkips : Obligations.RegisterSkips := by
  intro x y s
  refine ⟨⟨?_, _, rfl, s.skipIf_beq_pc _ _, unchangedBut_skipIf s _⟩,
    ⟨?_, _, rfl, s.skipIf_bne_pc _ _, unchangedBut_skipIf s _⟩, fun n hn => ⟨?_, ?_⟩⟩
  · exact decodeWord_encode (i := .seReg x y) rfl
  · exact decodeWord_encode (i := .sneReg x y) rfl
  · exact decodeWord_error_of_unmatchedWord (.inr (.inl ⟨by simp, by simpa using hn⟩)) (by simp)
  · exact decodeWord_error_of_unmatchedWord (.inr (.inr (.inr (.inl ⟨by simp, by simpa using hn⟩)))) (by simp)

end Sys2Proof.Machine
end

section
/-! SUPPORT. Register arithmetic and logic (43_alu.md): the flags and the results as numbers, and the two writes of the
instructions that leave a flag. -/

namespace Sys2Proof.Machine

/-! ### Flags and results as numbers (10_state.md R22) -/

@[simp] theorem toNat_flagByte (b : Bool) : (flagByte b).toNat = if b then 1 else 0 := by cases b <;> rfl

@[simp] theorem toNat_carryFlag (a b : Byte) :
    (carryFlag a b).toNat = if 255 < a.toNat + b.toNat then 1 else 0 := by simp [carryFlag]

@[simp] theorem toNat_notBorrowFlag (a b : Byte) :
    (notBorrowFlag a b).toNat = if a.toNat < b.toNat then 0 else 1 := by
  by_cases h : a.toNat < b.toNat <;> simp [notBorrowFlag, h]

@[simp] theorem toNat_lowBitFlag (a : Byte) : (lowBitFlag a).toNat = a.toNat % 2 :=
  (BitVec.toNat_and a 1#8).trans (Nat.and_one_is_mod _)

/-- The order of the terms in which 43_alu.md writes a difference, where `BitVec.toNat_sub` has 256 − b first. -/
theorem toNat_byte_sub (a b : Byte) : (a - b).toNat = (a.toNat + 256 - b.toNat) % 256 := by
  have hb := b.isLt
  rw [BitVec.toNat_sub]
  congr 1
  omega

theorem toNat_byte_shiftRight_one (a : Byte) : (a >>> 1).toNat = a.toNat / 2 := by
  rw [BitVec.toNat_ushiftRight, Nat.shiftRight_one]

theorem toNat_byte_shiftLeft_one (a : Byte) : (a <<< 1).toNat = 2 * a.toNat % 256 := by
  rw [BitVec.toNat_shiftLeft, Nat.shiftLeft_eq, Nat.mul_comm, Nat.pow_one]

/-! ### One register written -/

theorem unchangedBut_writeV (s : State) (x : RegIx) (b : Byte) : UnchangedBut [.v x] s (s.writeV x b) :=
  unchangedBut_iff_writesOnly.mpr (writesOnly_writeV s b List.mem_cons_self)

/-- Settles O27: each load is one write of Vx. -/
theorem loadsWriteOnlyVx : Obligations.LoadsWriteOnlyVx :=
  fun x y nn s =>
    ⟨⟨decodeWord_encode (i := .ldImm x nn) rfl, _, rfl, s.readV_writeV_same x _, unchangedBut_writeV s x _⟩,
      ⟨decodeWord_encode (i := .ldReg x y) rfl, _, rfl, s.readV_writeV_same x _, unchangedBut_writeV s x _⟩⟩

/-- Settles O28: the sum of two bytes is their sum mod 256, and Vx is all that is written. -/
theorem addImmediateWrapsWithoutCarry : Obligations.AddImmediateWrapsWithoutCarry := by
  intro x nn s
  refine ⟨decodeWord_encode (i := .addImm x nn) rfl, _, rfl, ?_, unchangedBut_writeV s x _⟩
  rw [State.readV_writeV_same, BitVec.toNat_add]

/-- Settles O29: each result is one write of Vx, of the operation on bytes, which acts on each bit. -/
theorem bitwiseOpsWriteOnlyVx : Obligations.BitwiseOpsWriteOnlyVx := by
  intro x y s
  refine ⟨⟨?_, _, rfl, unchangedBut_writeV s x _, fun b => ?or⟩, ⟨?_, _, rfl, unchangedBut_writeV s x _, fun b => ?and⟩,
    ⟨?_, _, rfl, unchangedBut_writeV s x _, fun b => ?xor⟩⟩
  · exact decodeWord_encode (i := .orReg x y) rfl
  case or => rw [State.readV_writeV_same, BitVec.getLsbD_or]
  · exact decodeWord_encode (i := .andReg x y) rfl
  case and => rw [State.readV_writeV_same, BitVec.getLsbD_and]
  · exact decodeWord_encode (i := .xorReg x y) rfl
  case xor => rw [State.readV_writeV_same, BitVec.getLsbD_xor]

/-- Settles O35: Vx is nn AND the byte drawn, so 0x00 keeps no bit of it and 0xFF every bit. -/
theorem randomByteIsMasked : Obligations.RandomByteIsMasked := by
  intro x nn s
  have hVx : ((s.writeV x (nn &&& Config.randByte s.draws)).nextDraw).readV x = nn &&& Config.randByte s.draws := by simp
  refine ⟨decodeWord_encode (i := .rnd x nn) rfl, _, rfl, rfl, fun b => ?bits, ?none, ?all, ?frame⟩
  case bits => rw [hVx, BitVec.getLsbD_and]
  case none => rintro rfl; exact hVx.trans BitVec.zero_and
  case all => rintro rfl; exact hVx.trans BitVec.allOnes_and
  case frame =>
    exact WritesOnly.trans (writesOnly_writeV s _ List.mem_cons_self)
      (writesOnly_nextDraw _ (List.mem_cons_of_mem _ List.mem_cons_self))

/-! ### A result and a flag written (00_scope.md R14) -/

section
variable (s : State) (x : RegIx) (flag b : Byte)

/-- The frame of the two writes, in the order of `8xy4`. -/
theorem unchangedBut_writeV_vF : UnchangedBut [.v x, .v vF] s ((s.writeV x b).writeV vF flag) :=
  WritesOnly.trans (writesOnly_writeV s b List.mem_cons_self)
    (writesOnly_writeV _ flag (List.mem_cons_of_mem _ List.mem_cons_self))

/-- The frame of the two writes, in the order of the differences and the shifts. -/
theorem unchangedBut_vF_writeV : UnchangedBut [.v x, .v vF] s ((s.writeV vF flag).writeV x b) :=
  WritesOnly.trans (writesOnly_writeV s flag (List.mem_cons_of_mem _ List.mem_cons_self))
    (writesOnly_writeV _ b List.mem_cons_self)

variable {x}

/-- A flag written first stays, unless the result goes to VF. -/
theorem State.readV_vF_writeV (hx : x ≠ vF) : ((s.writeV vF flag).writeV x b).readV vF = flag := by
  rw [State.readV_writeV_ne _ b hx.symm, State.readV_writeV_same]

end

/-- Settles O30: the carry is written last, so it stays in VF whatever x is, and the sum stays where Vx is not VF. -/
theorem addRegistersSetsCarry : Obligations.AddRegistersSetsCarry := by
  intro x y s
  refine ⟨decodeWord_encode (i := .addReg x y) rfl, _, rfl, fun hx => ?sum, ?carry, unchangedBut_writeV_vF s x _ _⟩
  case sum => rw [State.readV_writeV_ne _ _ hx, State.readV_writeV_same, BitVec.toNat_add]
  case carry => rw [State.readV_writeV_same, toNat_carryFlag]

/-! ### Differences (R158, R160) -/

/-- What `V[m] - V[k]` of the values read after the flag is written leaves in Vx: an operand that is VF is the flag (the
spec's decision D12). -/
theorem toNat_difference_cases (s : State) (x m k : RegIx) {f : Byte} {flag : Nat} (hf : f.toNat = flag) :
    letI s₁ := s.writeV vF f
    letI result := ((s₁.writeV x (s₁.readV m - s₁.readV k)).readV x).toNat
    (m ≠ vF → k ≠ vF → result = ((s.readV m).toNat + 256 - (s.readV k).toNat) % 256) ∧
    (m = vF → k ≠ vF → result = (flag + 256 - (s.readV k).toNat) % 256) ∧
    (m ≠ vF → k = vF → result = ((s.readV m).toNat + 256 - flag) % 256) ∧
    (m = vF → k = vF → result = 0) := by
  subst hf
  rw [State.readV_writeV_same, toNat_byte_sub]
  refine ⟨fun hm hk => ?neither, ?minuend, ?subtrahend, ?both⟩
  case neither => rw [State.readV_writeV_ne s f hm, State.readV_writeV_ne s f hk]
  case minuend =>
    rintro rfl hk
    rw [State.readV_writeV_same, State.readV_writeV_ne s f hk]
  case subtrahend =>
    rintro hm rfl
    rw [State.readV_writeV_same, State.readV_writeV_ne s f hm]
  case both =>
    rintro rfl rfl
    rw [Nat.add_sub_cancel_left]

/-- Settles O31: the flag stays unless Vx is VF, and the difference is Vx − Vy of the values read after it. -/
theorem subWritesFlagThenDifference : Obligations.SubWritesFlagThenDifference := by
  intro x y s
  obtain ⟨hneither, hx_is_vF, hy_is_vF, hboth⟩ :=
    toNat_difference_cases s x x y (toNat_notBorrowFlag (s.readV x) (s.readV y))
  refine ⟨decodeWord_encode (i := .sub x y) rfl, _, _, rfl, rfl, hneither, fun hx => ?flag, ?xIsF, hy_is_vF, ?both,
    unchangedBut_vF_writeV s x _ _⟩
  case flag => rw [State.readV_vF_writeV s _ _ hx, toNat_notBorrowFlag]
  case xIsF => rintro rfl hy; exact hx_is_vF rfl hy
  case both => rintro rfl hy; exact hboth rfl hy

/-- Settles O32: as for `8xy5`, with the operands and the flag of Vy − Vx. -/
theorem subnWritesFlagThenDifference : Obligations.SubnWritesFlagThenDifference := by
  intro x y s
  obtain ⟨hneither, hy_is_vF, hx_is_vF, hboth⟩ :=
    toNat_difference_cases s x y x (toNat_notBorrowFlag (s.readV y) (s.readV x))
  refine ⟨decodeWord_encode (i := .subn x y) rfl, _, _, rfl, rfl, fun hx hy => hneither hy hx, fun hx => ?flag, ?xIsF,
    fun hx hy => hy_is_vF hy hx, ?both, unchangedBut_vF_writeV s x _ _⟩
  case flag => rw [State.readV_vF_writeV s _ _ hx, toNat_notBorrowFlag]
  case xIsF => rintro rfl hy; exact hx_is_vF hy rfl
  case both => rintro rfl hy; exact hboth hy rfl

/-! ### Shifts (R159, R161) -/

/-- Settles O33: the halved value is the one read after the flag, which is Vx itself unless Vx is VF; y is not read. -/
theorem shiftRightHalvesVx : Obligations.ShiftRightHalvesVx := by
  intro x y s
  refine ⟨decodeWord_encode (i := .shr x y) rfl, _, rfl, fun _ => rfl, fun hx => ⟨?half, ?flag⟩, ?xIsF,
    unchangedBut_vF_writeV s x _ _⟩
  case half => rw [State.readV_writeV_same, toNat_byte_shiftRight_one, State.readV_writeV_ne s _ hx]
  case flag => rw [State.readV_vF_writeV s _ _ hx, toNat_lowBitFlag]
  case xIsF =>
    rintro rfl
    rw [State.readV_writeV_same, toNat_byte_shiftRight_one, State.readV_writeV_same, toNat_lowBitFlag]
    omega

/-- Settles O34: the doubled value is the one read after the flag, which is Vx itself unless Vx is VF; y is not read. -/
theorem shiftLeftTakesBitZero : Obligations.ShiftLeftTakesBitZero := by
  intro x y s
  refine ⟨decodeWord_encode (i := .shl x y) rfl, _, rfl, fun _ => rfl, fun hx => ⟨?double, ?flag⟩, ?xIsF,
    unchangedBut_vF_writeV s x _ _⟩
  case double => rw [State.readV_writeV_same, toNat_byte_shiftLeft_one, State.readV_writeV_ne s _ hx]
  case flag => rw [State.readV_vF_writeV s _ _ hx, toNat_lowBitFlag]
  case xIsF =>
    rintro rfl
    rw [State.readV_writeV_same, toNat_byte_shiftLeft_one, State.readV_writeV_same, toNat_lowBitFlag]
    omega

end Sys2Proof.Machine
end

section
/-! SUPPORT. The index register and the memory transfers (44_index_memory.md). -/

namespace Sys2Proof.Machine

/-! ### The index register (R170 to R172) -/

/-- The sum is mod 65536, with no mask to 12 bits. -/
theorem toNat_indexPlus (i : Word) (b : Byte) : (indexPlus i b).toNat = (i.toNat + b.toNat) % 65536 := by
  rw [indexPlus, BitVec.toNat_add, toNat_zextByte]

/-- The formula is exact on all 8 bits: at most 0x050 + 5 × 0xFF, it never wraps. -/
theorem toNat_glyphAddr (b : Byte) : (glyphAddr b).toNat = 0x050 + 5 * b.toNat := by
  have hb := b.isLt
  have hlt : 0x050 + 5 * b.toNat < 65536 := by omega
  exact Nat.mod_eq_of_lt hlt

theorem unchangedBut_setI (s : State) (a : Word) : UnchangedBut [.i] s (s.setI a) :=
  unchangedBut_iff_writesOnly.mpr (writesOnly_setI s a List.mem_cons_self)

/-- Settles O36: `Annn` is one write of I, of `zext_16(nnn)`. -/
theorem loadIndexSetsI : Obligations.LoadIndexSetsI :=
  fun nnn s => ⟨decodeWord_encode (i := .ldI nnn) rfl, _, rfl, toNat_addrOperand nnn, unchangedBut_setI s _⟩

/-- Settles O37: each of the two is one write of I. -/
theorem indexArithmeticIsUnmasked : Obligations.IndexArithmeticIsUnmasked :=
  fun x s =>
    ⟨⟨decodeWord_encode (i := .addI x) rfl, _, rfl, toNat_indexPlus s.i _, unchangedBut_setI s _⟩,
      ⟨decodeWord_encode (i := .ldF x) rfl, _, rfl, toNat_glyphAddr _, unchangedBut_setI s _⟩⟩

/-! ### Stores at I (R173, R174) -/

/-- The frame of a block of writes in range: the addresses of the block. -/
theorem unchangedBut_setMem_putBlock {s : State} {base : Nat} {bytes : List Byte} (hm : s.mem.wf)
    (hr : base + bytes.length ≤ Config.memSize) :
    UnchangedBut (bytesFrom base bytes.length) s (s.setMem (s.mem.putBlock base bytes)) := by
  intro p hp
  cases p with
  | byte a =>
    rw [byte_mem_bytesFrom] at hp
    refine (Memory.get_putBlock bytes base s.mem hm hr a).trans ?_
    split
    · exact List.getD_eq_default _ _ (by omega)
    · rfl
  | _ => rfl

@[simp] theorem length_bcdDigits (b : Byte) : (bcdDigits b).length = 3 := rfl

theorem exec_ldB_of_lt {x : RegIx} {s : State} (h : s.i.toNat + 2 < 4096) :
    exec (.ldB x) s = .next (s.setMem (s.mem.putBlock s.i.toNat (bcdDigits (s.readV x)))) := by
  change storeAtI (bcdDigits (s.readV x)) s = _
  rcases storeAtI_cases (bcdDigits (s.readV x)) s (by simp) with ⟨_, hs⟩ | ⟨hr, _⟩
  · exact hs
  · rw [length_bcdDigits] at hr
    exact absurd hr (Nat.not_lt.mpr h)

/-- Settles O38: the digits are `bcdDigits` of Vx, which the store leaves at I, I + 1 and I + 2. -/
theorem bcdStoresTheDecimalDigits : Obligations.BcdStoresTheDecimalDigits := by
  intro x s hm h
  have hVx := (s.readV x).isLt
  have hr : s.i.toNat + (bcdDigits (s.readV x)).length ≤ Config.memSize := h
  have hhundreds : (s.readV x).toNat / 100 < 10 := by omega
  have htens : (s.readV x).toNat / 10 % 10 < 10 := Nat.mod_lt _ (by decide)
  have hones : (s.readV x).toNat % 10 < 10 := Nat.mod_lt _ (by decide)
  have hdigit {k n : Nat} (hk : (bcdDigits (s.readV x))[k]? = some (BitVec.ofNat 8 n)) (hn : n < 10) :
      ((s.mem.putBlock s.i.toNat (bcdDigits (s.readV x))).get (s.i.toNat + k)).toNat = n := by
    rw [Memory.get_putBlock_add hm hr hk, BitVec.toNat_ofNat, Nat.mod_eq_of_lt (by omega)]
  exact ⟨decodeWord_encode (i := .ldB x) rfl, _, _, _, _, exec_ldB_of_lt h, hhundreds, htens, hones, by omega,
    hdigit (k := 0) rfl hhundreds, hdigit (k := 1) rfl htens, hdigit (k := 2) rfl hones,
    unchangedBut_setMem_putBlock hm hr⟩

/-- Settles O39: the block that the store leaves at I is V0 to Vx. -/
theorem storeRegistersWritesTheBlock : Obligations.StoreRegistersWritesTheBlock := by
  intro x s hm h
  have hr : s.i.toNat + (s.regBlock x).length ≤ Config.memSize := by
    rw [State.regBlock_length]
    exact h
  have hs := exec_storeRegs_of_lt h
  refine ⟨decodeWord_encode (i := .storeRegs x) rfl, _, hs, fun k hk => mem_get_of_exec_storeRegs hm h hk hs, ?frame⟩
  case frame =>
    rw [← State.regBlock_length s x]
    exact unchangedBut_setMem_putBlock hm hr

/-! ### The load from I (R175) -/

theorem v_mem_regsUpTo {x q : RegIx} (h : q.toNat ≤ x.toNat) : .v q ∈ regsUpTo x :=
  List.mem_map.mpr ⟨q.toNat, List.mem_range.mpr (Nat.lt_succ_of_le h), by rw [BitVec.ofNat_toNat, BitVec.setWidth_eq]⟩

/-- Settles O40: the registers that the load writes are those with a byte in the block, V0 to Vx. -/
theorem loadRegistersReadsTheBlock : Obligations.LoadRegistersReadsTheBlock := by
  intro x s h
  refine ⟨decodeWord_encode (i := .loadRegs x) rfl, _, exec_loadRegs_of_lt h,
    fun k hk => State.readV_loadBlock_getBlock s _ _ _ (Nat.lt_succ_of_le hk), ?frame⟩
  case frame =>
    refine unchangedBut_iff_writesOnly.mpr (writesOnly_loadBlock s fun q hq => v_mem_regsUpTo ?_)
    rw [Memory.getBlock_length] at hq
    exact Nat.le_of_lt_succ hq

/-! ### Blocks beyond memory (60_exceptions.md R202) -/

/-- Where the fault table names a fault, the instruction takes it. -/
theorem exec_of_faultOf {i : Instr} {s : State} {c : FaultCause} {n : Nat} (h : faultOf i s = some (c, n)) :
    exec i s = raiseFault c n s := by
  rcases exec_cases i s with ⟨c', n', h', he⟩ | ⟨h', -⟩ <;> cases h.symm.trans h'
  exact he

/-- A block whose last byte is beyond memory has its lowest bad address at the greater of its base and 4096. -/
theorem firstBadAddress_of_le {base n : Nat} (h : 4096 ≤ base + n) :
    firstBadAddress base (n + 1) = some (max base 4096) := by
  rw [firstBadAddress_eq]
  exact lowestOutOfRange_some.mpr ⟨⟨Nat.succ_ne_zero n, Nat.lt_succ_of_le h⟩, rfl⟩

/-- Settles O41: the fault table names the fault of each transfer, and fault entry writes pc and `run` alone. -/
theorem blockTransfersFaultBeyondMemory : Obligations.BlockTransfersFaultBeyondMemory := by
  refine fun x s => ⟨fun h => ?bcd, fun h => ?store, fun h => ?load⟩
  case bcd => exact exec_of_faultOf (i := .ldB x) (congrArg (Option.map _) (firstBadAddress_of_le h))
  case store => exact exec_of_faultOf (i := .storeRegs x) (congrArg (Option.map _) (firstBadAddress_of_le h))
  case load => exact exec_of_faultOf (i := .loadRegs x) (congrArg (Option.map _) (firstBadAddress_of_le h))

end Sys2Proof.Machine
end

section
/-! SUPPORT. The key matrix and the timers (45_keys_timers.md): the key wait without a key and with one, the skips on a key,
and the three timer transfers. -/

namespace Sys2Proof.Machine

/-! ### The key wait without a key (R193) -/

/-- In every configuration the rewind of a key wait without a key undoes the fetch's advance. -/
theorem execUnder_ldVxK_of_no_key (p : Config.Parameters) (x : RegIx) {s : State}
    (h : ∀ k : Fin 16, s.keys[k.val] = false) : execUnder p (.ldVxK x) s.advancePc = .next s := by
  rcases execLdVxKUnder_cases p.keySelect x s.advancePc with ⟨-, hr⟩ | ⟨k, hk, -⟩
  · rw [State.rewindPc_advancePc] at hr
    exact hr
  · exact absurd hk (Bool.eq_false_iff.mp (h k))

/-- Settles O50: the cycle advances pc and the key wait rewinds it; `step` is the documented configuration's cycle. -/
theorem keyWaitSpinsWithoutAKey : Obligations.KeyWaitSpinsWithoutAKey := by
  intro x s hrun hpc hword hno
  have hdec : decodeWord s.wordAtPc = .ok (.ldVxK x) := decodeWord_eq_ok_iff.mpr ⟨rfl, hword.symm⟩
  have hspin : ∀ p, stepUnder p s = .next s := fun p =>
    (stepUnder_exec p hrun hpc hdec).trans (execUnder_ldVxK_of_no_key p x hno)
  exact ⟨stepUnder_documented ▸ hspin documented, hspin⟩

/-! ### The key wait with a key (R193, R198) -/

/-- In every configuration a key wait with some key pressed writes the index of one to Vx, under KEY_SELECT = lowest the
least. -/
theorem execUnder_ldVxK_of_key (p : Config.Parameters) (x : RegIx) {s : State}
    (h : ∃ k : Fin 16, s.keys[k.val] = true) :
    ∃ k : Fin 16, s.keys[k.val] = true ∧ (p.keySelect = .lowest → ∀ j : Fin 16, s.keys[j.val] = true → k ≤ j) ∧
      execUnder p (.ldVxK x) s = .next (s.writeV x (BitVec.ofNat 8 k.val)).nextDraw := by
  rcases execLdVxKUnder_cases p.keySelect x s with ⟨hno, -⟩ | hk
  · obtain ⟨k, hk⟩ := h
    exact absurd hk (Bool.eq_false_iff.mp (hno k))
  · exact hk

/-- The index of a key fits a byte. -/
theorem State.toNat_readV_writeV_key (s : State) (x : RegIx) (k : Fin 16) :
    ((s.writeV x (BitVec.ofNat 8 k.val)).nextDraw.readV x).toNat = k.val := by
  rw [State.nextDraw_readV, State.readV_writeV_same]
  exact Nat.mod_eq_of_lt (k.isLt.trans (by decide))

theorem unchangedBut_writeV_nextDraw (s : State) (x : RegIx) (b : Byte) :
    UnchangedBut [.v x, .draws] s (s.writeV x b).nextDraw :=
  WritesOnly.trans (writesOnly_writeV s b List.mem_cons_self)
    (writesOnly_nextDraw _ (List.mem_cons_of_mem _ List.mem_cons_self))

/-- Settles O51: `execUnder_ldVxK_of_key`, of which the clause on `exec` is the documented configuration's. -/
theorem keyWaitTakesAPressedKey : Obligations.KeyWaitTakesAPressedKey := by
  refine fun x s hpressed => ⟨decodeWord_encode (i := .ldVxK x) rfl, ?documented, fun p => ?configured⟩
  case documented =>
    obtain ⟨k, hk, -, hs⟩ := execUnder_ldVxK_of_key documented x hpressed
    rw [execUnder_documented] at hs
    exact ⟨_, k, hs, hk, s.toNat_readV_writeV_key x k, unchangedBut_writeV_nextDraw s x _⟩
  case configured =>
    obtain ⟨k, hk, hleast, hs⟩ := execUnder_ldVxK_of_key p x hpressed
    exact ⟨_, k, hs, hk, hleast, s.toNat_readV_writeV_key x k, unchangedBut_writeV_nextDraw s x _⟩

/-! ### Skips on a key (R190, R191, R196) -/

theorem keyIndex_of_toNat_eq {b : Byte} {k : Fin 16} (h : b.toNat = k.val) : keyIndex b = some k := by
  rcases keyIndex_cases b with ⟨-, hb⟩ | ⟨hb, hk⟩
  · omega
  · rw [hk]
    exact congrArg some (Fin.ext h)

section
variable {x : RegIx} {k : Fin 16} {s : State}

theorem exec_skp_of_key (h : (s.readV x).toNat = k.val) : exec (.skp x) s = .next (s.skipIf s.keys[k.val]) := by
  rw [exec, execSkp, keyIndex_of_toNat_eq h]

theorem exec_sknp_of_key (h : (s.readV x).toNat = k.val) : exec (.sknp x) s = .next (s.skipIf !s.keys[k.val]) := by
  rw [exec, execSknp, keyIndex_of_toNat_eq h]

end

/-- A skip on the negation of a condition skips in the other case. -/
theorem State.skipIf_not_pc (s : State) (c : Bool) :
    (s.skipIf !c).pc = if c = true then s.pc else s.pc + 2#16 := by cases c <;> rfl

/-- Settles O48: the two skips are `skipIf` on the key and on its negation. -/
theorem keySkipsFollowTheKey : Obligations.KeySkipsFollowTheKey :=
  fun x _ s h =>
    ⟨⟨decodeWord_encode (i := .skp x) rfl, _, exec_skp_of_key h, s.skipIf_pc _, unchangedBut_skipIf s _⟩,
      ⟨decodeWord_encode (i := .sknp x) rfl, _, exec_sknp_of_key h, s.skipIf_not_pc _, unchangedBut_skipIf s _⟩⟩

/-- Settles O49: the fault table names the fault of both skips, and fault entry writes pc and `run` alone. -/
theorem keyIndexAboveFifteenFaults : Obligations.KeyIndexAboveFifteenFaults :=
  fun x _ h => ⟨exec_of_faultOf (i := .skp x) (if_pos h), exec_of_faultOf (i := .sknp x) (if_pos h)⟩

/-! ### Timer transfers (R192, R194, R195) -/

theorem unchangedBut_setDt (s : State) (b : Byte) : UnchangedBut [.dt] s (s.setDt b) :=
  unchangedBut_iff_writesOnly.mpr (writesOnly_setDt s b List.mem_cons_self)

theorem unchangedBut_setSt (s : State) (b : Byte) : UnchangedBut [.st] s (s.setSt b) :=
  unchangedBut_iff_writesOnly.mpr (writesOnly_setSt s b List.mem_cons_self)

/-- Settles O52: each transfer is one write, of Vx, of DT or of ST. -/
theorem timerTransfersCopyOneByte : Obligations.TimerTransfersCopyOneByte :=
  fun x s =>
    ⟨⟨decodeWord_encode (i := .ldVxDT x) rfl, _, rfl, s.readV_writeV_same x _, unchangedBut_writeV s x _⟩,
      ⟨decodeWord_encode (i := .ldDTVx x) rfl, _, rfl, s.setDt_dt _, unchangedBut_setDt s _⟩,
      ⟨decodeWord_encode (i := .ldSTVx x) rfl, _, rfl, s.setSt_st _, unchangedBut_setSt s _⟩⟩

end Sys2Proof.Machine
end

section
/-! SUPPORT. Faults (60_exceptions.md R201 to R204): a Running engine's cycle takes the fault that the fault table names, as a
change of `run` alone, or it completes. -/

namespace Sys2Proof.Machine

/-- Settles O11: the cycle of a Faulted engine is `step_faulted`. -/
theorem faultedEngineTakesNoStep : Obligations.FaultedEngineTakesNoStep := fun _ _ => step_faulted

/-! ### The fault table of a cycle (R202, R203) -/

section
variable {s : State}

/-- No condition of the fault table is on pc, so that the fetch's advance changes none. -/
theorem faultOf_advancePc (i : Instr) (s : State) : faultOf i s.advancePc = faultOf i s := by cases i <;> rfl

theorem State.cycleFault_of_gt (hp : 0xFFE < s.pc.toNat) :
    s.cycleFault = some (.fetchOutOfRange, s.pc.toNat) := if_pos hp

theorem State.cycleFault_of_decodeWord_ok {i : Instr} (hp : s.pc.toNat ≤ 0xFFE) (hi : decodeWord s.wordAtPc = .ok i) :
    s.cycleFault = faultOf i s := by
  rw [State.cycleFault, if_neg (Nat.not_lt.mpr hp), hi]

theorem State.cycleFault_of_decodeWord_error {e : DecodeRefusal} (hp : s.pc.toNat ≤ 0xFFE)
    (he : decodeWord s.wordAtPc = .error e) : s.cycleFault = none := by
  rw [State.cycleFault, if_neg (Nat.not_lt.mpr hp), he]

/-- Everything a Running engine's cycle can do, by the fault table: it takes the fault that the table names, which changes
`run` alone, or the table names none and it completes. -/
theorem step_cycleFault_cases (hrun : s.run = .running) :
    (∃ c n, s.cycleFault = some (c, n) ∧ step s = .next (s.setRun (.faulted ⟨c, s.pc, n⟩))) ∨
    (s.cycleFault = none ∧ ∃ t, step s = .next t ∧ t.run = .running) := by
  rcases step_running_cases hrun with ⟨hp, hs⟩ | ⟨hp, i, hi, hs⟩ | ⟨hp, e, he, hs⟩
  · exact .inl ⟨_, _, State.cycleFault_of_gt hp, hs⟩
  · rw [State.cycleFault_of_decodeWord_ok hp hi, hs, ← faultOf_advancePc]
    rcases exec_cases i s.advancePc with ⟨c, n, hf, hexec⟩ | ⟨hf, t, hexec, ht⟩
    · exact .inl ⟨c, n, hf, hexec.trans (raiseFault_advancePc s c n)⟩
    · exact .inr ⟨hf, t, hexec, ht.trans hrun⟩
  · exact .inr ⟨State.cycleFault_of_decodeWord_error hp he, _, hs, hrun⟩

end

/-- Settles O13: `step_cycleFault_cases`, each clause the one of its cases that the table's answer leaves. -/
theorem faultsAreExactlyThoseOfTheTable : Obligations.FaultsAreExactlyThoseOfTheTable := by
  intro s hrun
  rcases step_cycleFault_cases hrun with ⟨c, n, hf, hs⟩ | ⟨hf, hs⟩
  · refine ⟨fun cause info h => ?_, fun h => absurd (hf.symm.trans h) nofun⟩
    cases hf.symm.trans h
    exact hs
  · exact ⟨fun cause info h => absurd (hf.symm.trans h) nofun, fun _ => hs⟩

/-- Settles O12: of the two ways a Running engine's cycle can go, only the fault ends in a state that is not Running. -/
theorem faultIsPrecise : Obligations.FaultIsPrecise := by
  intro s t hrun hstep hfaulted
  rcases step_cycleFault_cases hrun with ⟨c, n, -, hs⟩ | ⟨-, t', hs, ht'⟩
  · cases hs.symm.trans hstep
    exact ⟨⟨c, s.pc, n⟩, rfl, rfl⟩
  · cases hs.symm.trans hstep
    exact absurd ht' hfaulted

end Sys2Proof.Machine
end

section
/-! SUPPORT. The host's interface (60_exceptions.md R210, R220 to R225): a placed word is the one run next, what each action
of the host writes, and that each keeps the invariant. -/

namespace Sys2Proof.Machine

/-! ### The word placed at the fetch address (R221, 40_cycle.md R105) -/

theorem decodeWord_of_decodeTableWord {nbits w : Nat} {i : Instr} (h : decodeTableWord nbits w = some i) :
    decodeWord (BitVec.ofNat 16 (w % 2 ^ nbits)) = .ok i := by
  rw [decodeTableWord, decode, wordOfBytes_bytes] at h
  cases hd : decodeWord (BitVec.ofNat 16 (w % 2 ^ nbits)) with
  | ok j =>
    simp only [hd] at h
    rw [Option.some.inj h]
  | error e =>
    simp only [hd] at h
    cases h

/-- A placement is one block of the word's two bytes. -/
theorem State.withFetchWord_eq (s : State) (nbits w : Nat) :
    s.withFetchWord nbits w = s.setMem (s.mem.putBlock s.pc.toNat
      [highByte (BitVec.ofNat 16 (w % 2 ^ nbits)), lowByte (BitVec.ofNat 16 (w % 2 ^ nbits))]) := rfl

section
variable {s : State} (hm : s.mem.wf) (hp : s.pc.toNat ≤ 0xFFE)
include hm hp

theorem State.wordAtPc_withFetchWord (nbits w : Nat) :
    (s.withFetchWord nbits w).wordAtPc = BitVec.ofNat 16 (w % 2 ^ nbits) := by
  have hr : s.pc.toNat + 2 ≤ Config.memSize := Nat.add_le_add_right hp 2
  rw [State.withFetchWord_eq]
  exact (congrArg₂ wordOfBytes (Memory.get_putBlock_add (k := 0) hm hr rfl)
    (Memory.get_putBlock_add (k := 1) hm hr rfl)).trans (wordOfBytes_bytes _)

theorem unchangedBut_withFetchWord (nbits w : Nat) :
    UnchangedBut (bytesFrom s.pc.toNat 2) s (s.withFetchWord nbits w) := by
  rw [State.withFetchWord_eq]
  exact unchangedBut_setMem_putBlock (bytes := [_, _]) hm (Nat.add_le_add_right hp 2)

end

/-- Settles O10: the word at pc is the placed one, so the step is `step_exec` of what it decodes to. -/
theorem placedWordIsRunNext : Obligations.PlacedWordIsRunNext := by
  intro s w i hm hrun hp _ hdec
  refine ⟨step_exec hrun hp ?_, unchangedBut_withFetchWord hm hp 16 w⟩
  rw [State.wordAtPc_withFetchWord hm hp]
  exact decodeWord_of_decodeTableWord hdec

/-! ### The loader (R221, 70_reset_and_hazards.md R234) -/

section
variable (p : Config.Parameters) {image : List Byte} (s : State)

theorem hostActUnder_load_of_le (h : image.length ≤ 3584) :
    hostActUnder p (.load image) s = .next (s.setMem (s.mem.putBlock 0x200 image)) := if_pos h

theorem hostActUnder_load_of_gt (h : 3584 < image.length) :
    hostActUnder p (.load image) s = .refused (.programTooLong image.length) := if_neg (Nat.not_le.mpr h)

end

theorem memResetByte_of_le {a : Nat} (h : 0x0A0 ≤ a) : memResetByte a = 0#8 :=
  if_neg fun ⟨_, hlt⟩ => Nat.not_lt.mpr h hlt

/-- Settles O16: an image of at most 3584 bytes is one block of writes in range, into a memory that a reset leaves 0 from
0x200 on. -/
theorem loaderPlacesItsImage : Obligations.LoaderPlacesItsImage := by
  refine ⟨fun s image hm hlen => ?placed, fun t image ht a ha => ?beyond,
    fun s image hlen => hostActUnder_load_of_gt documented s hlen⟩
  case placed =>
    have hr : 0x200 + image.length ≤ Config.memSize := Nat.add_le_add_left hlen 0x200
    exact ⟨_, hostActUnder_load_of_le documented s hlen, fun k b hb => Memory.get_putBlock_add hm hr hb,
      unchangedBut_setMem_putBlock hm hr⟩
  case beyond =>
    rcases Nat.lt_or_ge 3584 image.length with hlen | hlen
    · cases (hostActUnder_load_of_gt documented _ hlen).symm.trans ht
    · cases (hostActUnder_load_of_le documented _ hlen).symm.trans ht
      have hr : 0x200 + image.length ≤ Config.memSize := Nat.add_le_add_left hlen 0x200
      have hframe := unchangedBut_setMem_putBlock (s := State.reset) State.reset_mem_wf hr
      have hout : Part.byte a ∉ bytesFrom 0x200 image.length := by
        rw [byte_mem_bytesFrom]
        omega
      exact (hframe _ hout).trans (memResetByte_of_le (by omega))

/-! ### Keys, memory writes and dirty (R222, R223, R224) -/

theorem unchangedBut_setKeys (s : State) (keys : Vector Bool 16) :
    UnchangedBut ((List.finRange 16).map .key) s (s.setKeys keys) := by
  intro p hp
  cases p with
  | key k => exact absurd (List.mem_map_of_mem (List.mem_finRange k)) hp
  | _ => rfl

/-- A write of one byte is a block of one byte. -/
theorem unchangedBut_setMem_put {s : State} {a : Nat} (b : Byte) (hm : s.mem.wf) (ha : a < 4096) :
    UnchangedBut [.byte a] s (s.setMem (s.mem.put a b)) :=
  unchangedBut_setMem_putBlock (bytes := [b]) hm ha

theorem unchangedBut_setDirty (s : State) (b : Bool) : UnchangedBut [.dirty] s (s.setDirty b) :=
  unchangedBut_iff_writesOnly.mpr (writesOnly_setDirty s b List.mem_cons_self)

/-- Settles O17: each of the three actions is one write, of the keys, of one byte or of dirty. -/
theorem hostActionsWriteOnlyTheirOwnPart : Obligations.HostActionsWriteOnlyTheirOwnPart :=
  ⟨fun s keys => ⟨_, rfl, rfl, unchangedBut_setKeys s keys⟩,
    fun s a b hm => ⟨_, rfl, (Memory.get_put s.mem a.toNat a.toNat b hm).trans (if_pos ⟨rfl, a.isLt⟩),
      unchangedBut_setMem_put b hm a.isLt⟩,
    fun s => ⟨_, rfl, rfl, unchangedBut_setDirty s false⟩⟩

/-! ### The timer tick (R210) -/

section
variable {p : Config.Parameters} (s : State)

theorem hostActUnder_timerTick_external (h : p.timerTick = .external) :
    hostActUnder p .timerTick s = .next s.tick := by rw [hostActUnder, h]

theorem hostActUnder_timerTick_none (h : p.timerTick = .none) :
    hostActUnder p .timerTick s = .refused .timerTickNotConfigured := by rw [hostActUnder, h]

end

/-- The decrement that stops at 0 is the truncated subtraction. -/
theorem toNat_tickDown (b : Byte) : (tickDown b).toNat = b.toNat - 1 := by
  unfold tickDown
  split
  case isTrue h0 =>
    subst h0
    rfl
  case isFalse h0 =>
    have hpos : 1#8 ≤ b := Nat.one_le_iff_ne_zero.mpr fun e => h0 (BitVec.eq_of_toNat_eq e)
    exact BitVec.toNat_sub_of_le hpos

theorem unchangedBut_tick (s : State) : UnchangedBut [.dt, .st] s s.tick :=
  WritesOnly.trans (writesOnly_setDt s _ List.mem_cons_self)
    (writesOnly_setSt _ _ (List.mem_cons_of_mem _ List.mem_cons_self))

/-- Settles O18: a tick is `tickDown` of DT and of ST. -/
theorem timerTickStopsAtZero : Obligations.TimerTickStopsAtZero :=
  fun _ s =>
    ⟨fun h => ⟨_, hostActUnder_timerTick_external s h, toNat_tickDown s.dt, toNat_tickDown s.st, unchangedBut_tick s⟩,
      hostActUnder_timerTick_none s⟩

/-! ### The invariant under the host's actions (R220, R225) -/

/-- The state after every reset is within the bounds and Running. -/
theorem inv_resetAgain (p : Config.Parameters) (s : State) : Inv (s.resetAgain p) := by
  refine inv_iff.mpr ⟨⟨fontMemory_wf p.font, (by decide : (0x200#16).toNat ≤ 0x10FE), fun j => ?_⟩,
    State.recordFits_of_running rfl⟩
  simp [State.reset]

/-- An action that writes memory, keeping its canonical form, keeps the invariant: no fault record speaks of memory. -/
theorem Inv.setMem {s : State} (hs : Inv s) {m : Memory} (hm : m.wf) : Inv (s.setMem m) :=
  ⟨hm, hs.pcBound, hs.stackBound, hs.recordFits⟩

/-- Settles O58: reset meets the invariant anew, the loader and a memory write keep the canonical form, and the invariant
does not speak of the keys, the timers or dirty. -/
theorem hostActionsKeepTheInvariant : Obligations.HostActionsKeepTheInvariant := by
  intro p a s t hs h
  cases a with
  | reset =>
    cases h
    exact inv_resetAgain p s
  | setKeys _ | dirtyClear =>
    cases h
    exact ⟨hs.memCanonical, hs.pcBound, hs.stackBound, hs.recordFits⟩
  | memWrite addr b =>
    cases h
    exact hs.setMem (Memory.put_wf _ _ _ hs.memCanonical)
  | load image =>
    rcases Nat.lt_or_ge 3584 image.length with hlen | hlen
    · cases (hostActUnder_load_of_gt p s hlen).symm.trans h
    · cases (hostActUnder_load_of_le p s hlen).symm.trans h
      exact hs.setMem (Memory.putBlock_wf _ _ _ hs.memCanonical)
  | timerTick =>
    cases htick : p.timerTick with
    | none => cases (hostActUnder_timerTick_none s htick).symm.trans h
    | external =>
      cases (hostActUnder_timerTick_external s htick).symm.trans h
      exact ⟨hs.memCanonical, hs.pcBound, hs.stackBound, hs.recordFits⟩

end Sys2Proof.Machine
end

section
/-! SUPPORT. Noninterference (60_exceptions.md R222, 10_state.md R29, R33): no instruction reads dirty or ST. -/

namespace Sys2Proof.Machine

/-! ### States that differ in dirty and ST -/

/-- The state with another dirty and another ST, which no instruction reads. -/
def State.withDirtySt (b : Bool) (v : Byte) (s : State) : State := (s.setDirty b).setSt v

section
variable (s : State) (b : Bool) (v : Byte)

@[simp] theorem State.withDirtySt_mem : (s.withDirtySt b v).mem = s.mem := rfl
@[simp] theorem State.withDirtySt_i : (s.withDirtySt b v).i = s.i := rfl
@[simp] theorem State.withDirtySt_draws : (s.withDirtySt b v).draws = s.draws := rfl
@[simp] theorem State.withDirtySt_readV (r : RegIx) : (s.withDirtySt b v).readV r = s.readV r := rfl
@[simp] theorem State.withDirtySt_pressedKeys : (s.withDirtySt b v).pressedKeys = s.pressedKeys := rfl

theorem State.skipIf_withDirtySt (c : Bool) : (s.withDirtySt b v).skipIf c = (s.skipIf c).withDirtySt b v := by
  cases c <;> rfl

end

/-- From states that differ in dirty and ST alone, `execute` goes on to states that differ in dirty and ST alone, and each of
the two is alike after it where it was alike before. -/
def ReadsNoDirtySt (execute : State → Host.Outcome State Fault Refusal) : Prop :=
  ∀ s b v, ∃ t b' v', execute s = .next t ∧ execute (s.withDirtySt b v) = .next (t.withDirtySt b' v') ∧
    (b = s.dirty → b' = t.dirty) ∧ (v = s.st → v' = t.st)

/-! ### The meanings that may fault, and the skips -/

theorem execRet_of_pos {s : State} (h : 0 < s.sp.val) :
    execRet s = .next { s with sp := ⟨s.sp.val - 1, by omega⟩, pc := s.stack[s.sp.val - 1]'(by omega) } := by
  rcases execRet_cases s with ⟨hsp, -⟩ | ⟨_, hs⟩
  · exact absurd h (by simp [hsp])
  · exact hs

theorem execCall_of_lt (nnn : Addr12) {s : State} (h : s.sp.val < 16) :
    execCall nnn s = .next { s with
      stack := s.stack.set s.sp.val s.pc h, sp := ⟨s.sp.val + 1, by omega⟩, pc := addrOperand nnn } := by
  rcases execCall_cases nnn s with ⟨hsp, -⟩ | ⟨_, hs⟩
  · exact absurd h (by simp [hsp])
  · exact hs

theorem readsNoDirtySt_ret : ReadsNoDirtySt (exec .ret) := by
  intro s b v
  rcases execRet_cases s with ⟨hsp, hs⟩ | ⟨hsp, hs⟩
  · exact ⟨_, b, v, hs, exec_of_faultOf (i := .ret) (if_pos hsp), id, id⟩
  · exact ⟨_, b, v, hs, execRet_of_pos (s := s.withDirtySt b v) hsp, id, id⟩

theorem readsNoDirtySt_call (nnn : Addr12) : ReadsNoDirtySt (exec (.call nnn)) := by
  intro s b v
  rcases execCall_cases nnn s with ⟨hsp, hs⟩ | ⟨hsp, hs⟩
  · exact ⟨_, b, v, hs, exec_of_faultOf (i := .call nnn) (if_pos hsp), id, id⟩
  · exact ⟨_, b, v, hs, execCall_of_lt nnn (s := s.withDirtySt b v) hsp, id, id⟩

/-- A skip on a condition that depends on neither. -/
theorem readsNoDirtySt_skipIf {c : State → Bool} (hc : ∀ s b v, c (s.withDirtySt b v) = c s) :
    ReadsNoDirtySt fun s => .next (s.skipIf (c s)) := by
  intro s b v
  refine ⟨s.skipIf (c s), b, v, rfl, ?_, ?_, ?_⟩
  · simp only [hc, State.skipIf_withDirtySt]
  · exact (·.trans (s.skipIf_dirty _).symm)
  · exact (·.trans (s.skipIf_st _).symm)

theorem readsNoDirtySt_skp (x : RegIx) : ReadsNoDirtySt (exec (.skp x)) := by
  intro s b v
  simp only [exec, execSkp, State.withDirtySt_readV]
  cases keyIndex (s.readV x) with
  | none => exact ⟨_, b, v, rfl, rfl, id, id⟩
  | some k => exact readsNoDirtySt_skipIf (c := fun s => s.keys[k.val]) (fun _ _ _ => rfl) s b v

theorem readsNoDirtySt_sknp (x : RegIx) : ReadsNoDirtySt (exec (.sknp x)) := by
  intro s b v
  simp only [exec, execSknp, State.withDirtySt_readV]
  cases keyIndex (s.readV x) with
  | none => exact ⟨_, b, v, rfl, rfl, id, id⟩
  | some k => exact readsNoDirtySt_skipIf (c := fun s => !s.keys[k.val]) (fun _ _ _ => rfl) s b v

theorem readsNoDirtySt_storeAtI {bytes : State → List Byte} (hbytes : ∀ s b v, bytes (s.withDirtySt b v) = bytes s) :
    ReadsNoDirtySt fun s => storeAtI (bytes s) s := by
  intro s b v
  simp only [storeAtI, hbytes, State.withDirtySt_mem, State.withDirtySt_i]
  cases writeBlock s.i.toNat (bytes s) s.mem with
  | error a => exact ⟨_, b, v, rfl, rfl, id, id⟩
  | ok m => exact ⟨_, b, v, rfl, rfl, id, id⟩

theorem readsNoDirtySt_loadRegs (x : RegIx) : ReadsNoDirtySt (exec (.loadRegs x)) := by
  intro s b v
  simp only [exec, execLoadRegs, State.withDirtySt_mem, State.withDirtySt_i]
  cases readBlock s.i.toNat (x.toNat + 1) s.mem with
  | error a => exact ⟨_, b, v, rfl, rfl, id, id⟩
  | ok bytes => exact ⟨_, b, v, rfl, rfl, (·.trans (s.loadBlock_dirty bytes).symm),
      (·.trans (s.loadBlock_st bytes).symm)⟩

theorem readsNoDirtySt_drw (x y : RegIx) (n : Nibble) : ReadsNoDirtySt (exec (.drw x y n)) := by
  intro s b v
  simp only [exec, execDrw, State.withDirtySt_mem, State.withDirtySt_i]
  cases readBlock s.i.toNat n.toNat s.mem with
  | error a => exact ⟨_, b, v, rfl, rfl, id, id⟩
  | ok rows => exact ⟨_, true, v, rfl, rfl, fun _ => rfl, id⟩

theorem readsNoDirtySt_ldVxK (x : RegIx) : ReadsNoDirtySt (exec (.ldVxK x)) := by
  intro s b v
  simp only [exec, execLdVxK, execLdVxKUnder, State.withDirtySt_draws, State.withDirtySt_pressedKeys]
  cases chooseKey keySelect (Config.keyPick s.draws) s.pressedKeys with
  | none => exact ⟨_, b, v, rfl, rfl, id, id⟩
  | some k => exact ⟨_, b, v, rfl, rfl, id, id⟩

/-! ### Every instruction and every step -/

/-- No instruction reads dirty or ST: `00E0` and `Dxyn` set dirty whatever it was, `Fx18` writes Vx to ST whatever it was, and
the others leave both as they are. -/
theorem readsNoDirtySt_exec (i : Instr) : ReadsNoDirtySt (exec i) := by
  cases i with
  | ret => exact readsNoDirtySt_ret
  | call nnn => exact readsNoDirtySt_call nnn
  | seImm _ _ | sneImm _ _ | seReg _ _ | sneReg _ _ => exact readsNoDirtySt_skipIf fun _ _ _ => rfl
  | skp x => exact readsNoDirtySt_skp x
  | sknp x => exact readsNoDirtySt_sknp x
  | ldB _ | storeRegs _ => exact readsNoDirtySt_storeAtI fun _ _ _ => rfl
  | loadRegs x => exact readsNoDirtySt_loadRegs x
  | drw x y n => exact readsNoDirtySt_drw x y n
  | ldVxK x => exact readsNoDirtySt_ldVxK x
  | cls => exact fun s b v => ⟨_, true, v, rfl, rfl, fun _ => rfl, id⟩
  | ldSTVx x => exact fun s b v => ⟨_, b, s.readV x, rfl, rfl, id, fun _ => rfl⟩
  | jp _ | jpV0 _ | sys _ | ldImm _ _ | addImm _ _ | ldReg _ _ | orReg _ _ | andReg _ _ | xorReg _ _ | addReg _ _
  | sub _ _ | shr _ _ | subn _ _ | shl _ _ | rnd _ _ | ldVxDT _ | ldDTVx _ | ldI _ | addI _ | ldF _ =>
    exact fun s b v => ⟨_, b, v, rfl, rfl, id, id⟩

/-- Nor does a Running engine's cycle: the fetch and the decoder read neither. -/
theorem step_withDirtySt {s : State} (hrun : s.run = .running) (b : Bool) (v : Byte) :
    ∃ t b' v', step s = .next t ∧ step (s.withDirtySt b v) = .next (t.withDirtySt b' v') ∧
      (b = s.dirty → b' = t.dirty) ∧ (v = s.st → v' = t.st) := by
  rcases Nat.lt_or_ge 0xFFE s.pc.toNat with hp | hp
  · exact ⟨_, b, v, step_fetchFault hrun hp, step_fetchFault (s := s.withDirtySt b v) hrun hp, id, id⟩
  · cases hd : decodeWord s.wordAtPc with
    | ok i =>
      rw [step_exec hrun hp hd, step_exec (s := s.withDirtySt b v) hrun hp hd]
      exact readsNoDirtySt_exec i s.advancePc b v
    | error e =>
      exact ⟨_, b, v, step_unmatched hrun hp hd, step_unmatched (s := s.withDirtySt b v) hrun hp hd, id, id⟩

/-- Whether the step stops, and with which record, is up to `run` alone. -/
theorem step_fault_of_run_eq {s u : State} {r : Fault} (hu : u.run = s.run) (h : step s = .fault r) :
    step u = .fault r := by
  cases hrun : s.run with
  | running =>
    obtain ⟨t, -, -, ht, -⟩ := step_withDirtySt hrun s.dirty s.st
    cases ht.symm.trans h
  | faulted record => rw [step_faulted (hu.trans hrun), ← step_faulted hrun, h]

/-- Settles O54: `step_withDirtySt`, with ST alike and then with dirty alike. -/
theorem noInstructionReadsDirtyOrSoundTimer : Obligations.NoInstructionReadsDirtyOrSoundTimer := by
  intro s
  refine ⟨fun b => ⟨fun t h => ?dirty, fun r => step_fault_of_run_eq rfl⟩,
    fun v => ⟨fun t h => ?st, fun r => step_fault_of_run_eq rfl⟩⟩
  case dirty =>
    obtain ⟨t', b', v', ht, hstep, -, hst⟩ := step_withDirtySt (step_next_running h) b s.st
    cases ht.symm.trans h
    obtain rfl := hst rfl
    exact ⟨b', hstep⟩
  case st =>
    obtain ⟨t', b', v', ht, hstep, hdirty, -⟩ := step_withDirtySt (step_next_running h) s.dirty v
    cases ht.symm.trans h
    obtain rfl := hdirty rfl
    exact ⟨v', hstep⟩

end Sys2Proof.Machine
end

section
/-! SUPPORT. Reset and what the software owes (70_reset_and_hazards.md R231, R236): the state after reset, and the safe runs
as those whose cycles have no fault of the table. -/

namespace Sys2Proof.Machine

/-! ### Safe runs (R236, 60_exceptions.md R202) -/

section
variable {s t : State} {n : Nat}

theorem StaysRunning.running (h : StaysRunning n s) : s.run = .running := by
  cases n with
  | zero => exact h
  | succ n => exact h.1

theorem staysRunning_succ_iff (h : step s = .next t) : StaysRunning (n + 1) s ↔ StaysRunning n t := by
  constructor
  · rintro ⟨-, t', ht', hrun⟩
    cases h.symm.trans ht'
    exact hrun
  · exact fun hrun => ⟨step_next_running h, t, h, hrun⟩

@[simp] theorem runEvents_nil (s : State) : runEvents [] s = .next s := rfl

theorem runEvents_cycle_cons (h : step s = .next t) (rest : List Event) :
    runEvents (.cycle :: rest) s = runEvents rest t := by
  simp only [runEvents, runEventsUnder, reactUnder, stepUnder_documented, h]

end

/-- Settles O60, by induction on the number of cycles: where the table has a fault for the first cycle neither side holds,
and where it has none both sides speak of the state that this cycle leads to. -/
theorem safeCyclesMakeASafeRun : Obligations.SafeCyclesMakeASafeRun := by
  intro n
  induction n with
  | zero => exact fun s => ⟨fun h => ⟨h, nofun⟩, And.left⟩
  | succ n ih =>
    intro s
    have hrunning : StaysRunning (n + 1) s ↔ s.run = .running ∧ StaysRunning (n + 1) s :=
      (and_iff_right_of_imp StaysRunning.running).symm
    have hfirst : (∃ t, runEvents (List.replicate 0 .cycle) s = .next t ∧ t.cycleFault = none) ↔ s.cycleFault = none := by
      simp
    rw [hrunning, Nat.forall_lt_succ_left, hfirst]
    refine and_congr_right fun hrun => ?_
    rcases step_cycleFault_cases hrun with ⟨c, m, hf, hs⟩ | ⟨hf, t, hs, ht⟩
    case inl =>
      refine iff_of_false (fun h => ?_) (fun h => absurd (hf.symm.trans h.1) nofun)
      exact absurd ((staysRunning_succ_iff hs).mp h).running nofun
    case inr =>
      simp only [staysRunning_succ_iff hs, ih t, ht, hf, List.replicate_succ, runEvents_cycle_cons hs, true_and]

/-! ### The reset state (R231, 10_state.md R31, R39) -/

theorem memResetByte_outside_font {a : Nat} (h : a < 0x050 ∨ 0x0A0 ≤ a) : memResetByte a = 0#8 := by
  rcases h with hlo | hhi
  · exact if_neg fun ⟨hle, _⟩ => Nat.not_lt.mpr hle hlo
  · exact memResetByte_of_le hhi

theorem State.reset_getBlock_font : State.reset.mem.getBlock 0x050 80 = font := by decide

/-- Settles O14: the single fields and the font are written so in `State.reset` and `font`, every vector repeats its 0 or
false, and memory lists nothing, so that a byte outside the font is `memResetByte_outside_font`. -/
theorem resetStateIsTheSpecs : Obligations.ResetStateIsTheSpecs := by
  refine ⟨rfl, rfl, rfl, rfl, rfl, rfl, rfl, fun r => ?v, fun j => ?stack, fun k => ?keys, fun x y => ?disp,
    fun a ha => memResetByte_outside_font ha, State.reset_getBlock_font⟩
  case v => exact Vector.getElem_replicate r.isLt
  case stack => exact Vector.getElem_replicate j.isLt
  case keys => exact Vector.getElem_replicate k.isLt
  case disp => simp [State.reset, Display.pixel]

/-- Settles O56: the reset state is what a reset in the documented configuration leaves, and every reset meets the
invariant. -/
theorem resetMeetsTheInvariant : Obligations.ResetMeetsTheInvariant := by
  have hreset : State.reset.resetAgain documented = State.reset := State.resetAgain_documented State.reset
  have hinv : Inv (State.reset.resetAgain documented) := inv_resetAgain documented State.reset
  rwa [hreset] at hinv

end Sys2Proof.Machine
end
